-- ==== Sys2Proof/Word.lean ====
section
/-! DEFINITION. The bit-vector types of the block, each with the width its rule gives it. -/

namespace Sys2Proof

/-- An 8-bit unsigned value: a byte, the CRC register, the polynomial, the initial value (00_scope.md R4). -/
abbrev Byte := BitVec 8

/-- A command word `cmd[15:0]` (30_encoding.md R40). -/
abbrev Cmd16 := BitVec 16

/-- A reading of a dual frame, 16 bits unsigned (00_scope.md R4). -/
abbrev Reading16 := BitVec 16

/-- The reading of a single frame, 24 bits unsigned (00_scope.md R4). -/
abbrev Reading24 := BitVec 24

/-- The data of a response, `RSP_DATA[31:0]` (30_encoding.md R47). -/
abbrev Word32 := BitVec 32

end Sys2Proof
end

