-- ==== Sys2Proof/Syntax.lean ====
section
/-! DEFINITION. The command set as syntax: the commands themselves, their mnemonics and forms, the pseudo-instructions
and a line of assembler source. -/

namespace Sys2Proof

/-- The twelve commands (30_encoding.md R42), one constructor for each row of spec/opcode_table.json. A form-I
command carries its byte operand (R41); a form-N command carries none. -/
inductive Instr
  /-- `crc.init` (40_crc.md R65). -/
  | crcInit
  /-- `crc.byte b` (40_crc.md R66). -/
  | crcByte (b : Byte)
  /-- `crc.read` (40_crc.md R67). -/
  | crcRead
  /-- `crc.setpoly p` (40_crc.md R68). -/
  | crcSetpoly (p : Byte)
  /-- `crc.setinit i` (40_crc.md R69). -/
  | crcSetinit (i : Byte)
  /-- `crc.getcfg` (40_crc.md R70). -/
  | crcGetcfg
  /-- `frm.clear` (41_frame.md R86). -/
  | frmClear
  /-- `frm.push b` (41_frame.md R87). -/
  | frmPush (b : Byte)
  /-- `frm.len` (41_frame.md R88). -/
  | frmLen
  /-- `frm.dual` (41_frame.md R89). -/
  | frmDual
  /-- `frm.single` (41_frame.md R90). -/
  | frmSingle
  /-- `sext24` (41_frame.md R91). -/
  | sext24
  deriving DecidableEq, Repr

/-- The two ways a command uses `IMM8` (30_encoding.md R40). -/
inductive Form
  /-- Form N: no operand, `IMM8` must be 0. -/
  | formN
  /-- Form I: `IMM8` is the byte operand. -/
  | formI
  deriving DecidableEq, Repr

/-- The twelve mnemonics (30_encoding.md R42). -/
inductive Mnemonic
  | crcInit | crcByte | crcRead | crcSetpoly | crcSetinit | crcGetcfg
  | frmClear | frmPush | frmLen | frmDual | frmSingle | sext24
  deriving DecidableEq, Repr

/-- The form of each mnemonic (30_encoding.md R42). -/
def Mnemonic.form : Mnemonic → Form
  | .crcInit => .formN
  | .crcByte => .formI
  | .crcRead => .formN
  | .crcSetpoly => .formI
  | .crcSetinit => .formI
  | .crcGetcfg => .formN
  | .frmClear => .formN
  | .frmPush => .formI
  | .frmLen => .formN
  | .frmDual => .formN
  | .frmSingle => .formN
  | .sext24 => .formN

/-- The mnemonic of a command. -/
def Instr.mnemonic : Instr → Mnemonic
  | .crcInit => .crcInit
  | .crcByte _ => .crcByte
  | .crcRead => .crcRead
  | .crcSetpoly _ => .crcSetpoly
  | .crcSetinit _ => .crcSetinit
  | .crcGetcfg => .crcGetcfg
  | .frmClear => .frmClear
  | .frmPush _ => .frmPush
  | .frmLen => .frmLen
  | .frmDual => .frmDual
  | .frmSingle => .frmSingle
  | .sext24 => .sext24

/-- The byte operand of a command, where its form has one (30_encoding.md R41). -/
def Instr.operand : Instr → Option Byte
  | .crcInit => none
  | .crcByte b => some b
  | .crcRead => none
  | .crcSetpoly p => some p
  | .crcSetinit i => some i
  | .crcGetcfg => none
  | .frmClear => none
  | .frmPush b => some b
  | .frmLen => none
  | .frmDual => none
  | .frmSingle => none
  | .sext24 => none

/-- The two groups of commands (30_encoding.md R42): true for the CRC engine, false for the frame parser. -/
def Instr.isCrcEngine : Instr → Bool
  | .crcInit => true
  | .crcByte _ => true
  | .crcRead => true
  | .crcSetpoly _ => true
  | .crcSetinit _ => true
  | .crcGetcfg => true
  | .frmClear => false
  | .frmPush _ => false
  | .frmLen => false
  | .frmDual => false
  | .frmSingle => false
  | .sext24 => false

/-- The pseudo-instructions (30_encoding.md R49). -/
inductive Pseudo
  /-- `crc.seq b1, ..., bn`, n >= 0. -/
  | crcSeq (bytes : List Byte)
  /-- `crc.config p, i`. -/
  | crcConfig (p i : Byte)
  /-- `frm.load b0, ..., b(n-1)`, n >= 0. -/
  | frmLoad (bytes : List Byte)
  deriving DecidableEq, Repr

/-- A line of assembler source after its text is taken apart (30_encoding.md R48): a mnemonic and the operand as
written, an integer of any size. Whether it is a command is WellFormed.lean's question. -/
structure AsmLine where
  mnemonic : Mnemonic
  operand : Option Nat
  deriving DecidableEq, Repr

end Sys2Proof
end

