-- ==== Sys2Proof/WellFormed.lean ====
section
/-! DEFINITION. The checks an assembler makes on a line (30_encoding.md R48), and well-formedness of a command. -/

namespace Sys2Proof

/-- Why the assembler refuses a line. The first three are the refusals of 30_encoding.md R48; the others say that the
text is not a line of that rule's syntax (notes/assumptions/11.md). -/
inductive AsmError
  /-- An operand outside 0..255 (R48). -/
  | operandOutOfRange
  /-- An operand on a form-N mnemonic (R48). -/
  | operandOnFormN
  /-- An operand missing from a form-I mnemonic (R48). -/
  | operandMissing
  /-- More operands, or fewer, than the line takes. -/
  | wrongOperandCount
  /-- An operand that is neither decimal nor `0x` followed by hex digits. -/
  | malformedOperand
  /-- A first word that is no mnemonic and no pseudo-instruction. -/
  | unknownMnemonic
  deriving DecidableEq, Repr

/-- The first check of 30_encoding.md R48 that a line fails, if any. -/
def AsmLine.problem (l : AsmLine) : Option AsmError :=
  match l.mnemonic.form, l.operand with
  | .formN, none => none
  | .formN, some _ => some .operandOnFormN
  | .formI, none => some .operandMissing
  | .formI, some n => if n < 256 then none else some .operandOutOfRange

/-- A line is well formed when it passes every check of 30_encoding.md R48. -/
def AsmLine.wf (l : AsmLine) : Bool := l.problem.isNone

/-- The source line of a command. -/
def Instr.toLine (i : Instr) : AsmLine := ⟨i.mnemonic, i.operand.map BitVec.toNat⟩

/-- A command is well formed when its source line is: its operand is present exactly in form I and lies in 0..255
(30_encoding.md R41). A byte operand cannot lie outside, so every `Instr` passes (Laws/Decode.lean). -/
def Instr.wf (i : Instr) : Bool := i.toLine.wf

end Sys2Proof
end

