-- ==== Sys2Proof/Decode.lean ====
section
/-! DEFINITION. The decoder, total on all 2^16 words and rejecting by name, and after it the encoder, both written
from the tables of 30_encoding.md. -/

namespace Sys2Proof

/-- The field `OP = cmd[15:8]` (30_encoding.md R40). -/
def opField (w : Cmd16) : Byte := w.extractLsb' 8 8

/-- The field `IMM8 = cmd[7:0]` (30_encoding.md R40). -/
def immField (w : Cmd16) : Byte := w.extractLsb' 0 8

/-- Why a word is no command (30_encoding.md R44). -/
inductive IllegalWord
  /-- `OP` is not one of the twelve. -/
  | unassignedOp (op : Byte)
  /-- `OP` selects a form-N operation and `IMM8` is not 0x00. -/
  | immediateOnFormN (m : Mnemonic) (imm : Byte)
  deriving DecidableEq, Repr

/-- What the decoder makes of a word. -/
inductive Decoded
  /-- The word is this command. -/
  | legal (i : Instr)
  /-- The word is illegal, for this reason. -/
  | illegal (why : IllegalWord)
  deriving DecidableEq, Repr

/-- A form-N operation is legal only with `IMM8 = 0x00` (30_encoding.md R43, R44). -/
def decodeFormN (imm : Byte) (i : Instr) : Decoded :=
  if imm = 0 then .legal i else .illegal (.immediateOnFormN i.mnemonic imm)

/-- The case distinction of 30_encoding.md R43, on the two fields. -/
def decodeFields (op imm : Byte) : Decoded :=
  match op.toNat with
  | 0x01 => decodeFormN imm .crcInit
  | 0x02 => .legal (.crcByte imm)
  | 0x03 => decodeFormN imm .crcRead
  | 0x04 => .legal (.crcSetpoly imm)
  | 0x05 => .legal (.crcSetinit imm)
  | 0x06 => decodeFormN imm .crcGetcfg
  | 0x10 => decodeFormN imm .frmClear
  | 0x11 => .legal (.frmPush imm)
  | 0x12 => decodeFormN imm .frmLen
  | 0x13 => decodeFormN imm .frmDual
  | 0x14 => decodeFormN imm .frmSingle
  | 0x15 => decodeFormN imm .sext24
  | _ => .illegal (.unassignedOp op)

/-- The complete decoder of 30_encoding.md R43. -/
def decode (w : Cmd16) : Decoded := decodeFields (opField w) (immField w)

/-- The command the decoder reads, or none where the word is illegal. -/
def Decoded.instr? : Decoded → Option Instr
  | .legal i => some i
  | .illegal _ => none

/-- Whether the decoder reads a command. -/
def Decoded.isLegal : Decoded → Bool
  | .legal _ => true
  | .illegal _ => false

/-- The `OP` value of each mnemonic (30_encoding.md R42). -/
def Mnemonic.op : Mnemonic → Byte
  | .crcInit => 0x01
  | .crcByte => 0x02
  | .crcRead => 0x03
  | .crcSetpoly => 0x04
  | .crcSetinit => 0x05
  | .crcGetcfg => 0x06
  | .frmClear => 0x10
  | .frmPush => 0x11
  | .frmLen => 0x12
  | .frmDual => 0x13
  | .frmSingle => 0x14
  | .sext24 => 0x15

/-- The word `{OP, IMM8}` (30_encoding.md R48). -/
def commandWord (op imm : Byte) : Cmd16 := op ++ imm

/-- The word of a command, with `IMM8 = 0x00` for form N (30_encoding.md R42, R48). -/
def encode (i : Instr) : Cmd16 := commandWord i.mnemonic.op (i.operand.getD 0)

/-- One row of the match and mask table (30_encoding.md R42). -/
structure OpcodeRow where
  mnemonic : Mnemonic
  pattern : Cmd16
  mask : Cmd16
  deriving DecidableEq, Repr

/-- The match and mask table of 30_encoding.md R42. -/
def opcodeTable : List OpcodeRow :=
  [⟨.crcInit, 0x0100, 0xFFFF⟩, ⟨.crcByte, 0x0200, 0xFF00⟩, ⟨.crcRead, 0x0300, 0xFFFF⟩,
   ⟨.crcSetpoly, 0x0400, 0xFF00⟩, ⟨.crcSetinit, 0x0500, 0xFF00⟩, ⟨.crcGetcfg, 0x0600, 0xFFFF⟩,
   ⟨.frmClear, 0x1000, 0xFFFF⟩, ⟨.frmPush, 0x1100, 0xFF00⟩, ⟨.frmLen, 0x1200, 0xFFFF⟩,
   ⟨.frmDual, 0x1300, 0xFFFF⟩, ⟨.frmSingle, 0x1400, 0xFFFF⟩, ⟨.sext24, 0x1500, 0xFFFF⟩]

/-- A word lies in a row when its masked bits are the row's pattern. -/
def OpcodeRow.covers (r : OpcodeRow) (w : Cmd16) : Bool := w &&& r.mask == r.pattern

/-- The command word whose low `nbits` bits are those of `w` and whose other bits are 0. The port takes the word as
one 16-bit value, so no byte order enters (20_memory.md R32, notes/assumptions/10.md). -/
def tableWord (nbits w : Nat) : Cmd16 := BitVec.ofNat 16 (w % 2 ^ nbits)

/-- The instruction the decoder reads from a table word; none where the word is illegal or longer than a command. -/
def decodeTableWord (nbits w : Nat) : Option Instr :=
  if nbits ≤ 16 then (decode (tableWord nbits w)).instr? else none

end Sys2Proof
end

