-- ==== Sys2Proof/Config.lean ====
section
/-! DEFINITION. What is fixed for the block (00_scope.md R4), and the free values: constants with no body, for what
the spec leaves open. -/

namespace Sys2Proof.Config

/-- The default polynomial, also hardwired in the dual-frame checks (R4, 40_crc.md R63). -/
def defaultPoly : Byte := 0x31

/-- The default initial value, also hardwired in the dual-frame checks (R4, 40_crc.md R63). -/
def defaultInit : Byte := 0xFF

/-- The length of a dual frame in bytes (R4). -/
def dualLength : Nat := 6

/-- The length of a single frame in bytes (R4). -/
def singleLength : Nat := 3

/-- The number of entries of the frame buffer (R4, 92_eei_decisions.md D8). -/
def bufferDepth : Nat := 6

/-- Where the frame length counter saturates (R4, 10_state.md R17). -/
def lengthLimit : Nat := 7

/-- FREE VALUE: what `FB[entry]` holds after the reset numbered `draw` (10_state.md R16, 92_eei_decisions.md D12:
an arbitrary value, drawn at reset). Logged in notes/assumptions/4.md and 5.md. -/
opaque unspecifiedFrameByte (draw entry : Nat) : Byte

/-- FREE VALUE: what `R24` holds after the reset numbered `draw` (10_state.md R18, 92_eei_decisions.md D12).
Logged in notes/assumptions/4.md and 5.md. -/
opaque unspecifiedReading (draw : Nat) : Reading24

/-- OPEN parameter `LATENCY`: how long the step of a command takes, which may differ per command (R4,
70_reset_and_hazards.md R139). No rule depends on it, so nothing reads it. Logged in notes/assumptions/9.md. -/
opaque latency (word : Cmd16) : Nat

/-- OPEN parameter `BLOCK_BASE`: where a platform places the ports (R4, 20_memory.md R36). No rule depends on it,
so nothing reads it. Logged in notes/assumptions/9.md. -/
opaque blockBase : Nat

end Sys2Proof.Config
end

