-- ==== Sys2Proof/Machine/State.lean ====
section
/-! DEFINITION. The state of the block and its ports, as plain data, the reasons a step can stop, and the state right
after reset. -/

namespace Sys2Proof.Machine

/-- Why the machine stops with a fault: never. The block "never stops, hangs, refuses the next command or changes mode
because of an error" (60_exceptions.md R110); an error is a response. So there is no constructor, and no one can
raise a fault. -/
inductive Fault
  deriving DecidableEq, Repr

/-- Why the machine has no meaning for an instruction. -/
inductive Refusal
  /-- Raised only by an arm of `exec` whose instruction has no meaning yet. Safe: nothing is proved of such a step.
  No arm of this model raises it. -/
  | notModelled (mnemonic : String)
  deriving DecidableEq, Repr

/-- The names of the response codes (60_exceptions.md R111). Their 3-bit values are in Ops.lean. -/
inductive RspCode
  | ok | invalidFrameLength | checksumMismatch | illegalCommand | noValue
  deriving DecidableEq, Repr

/-- A response, the pair `(RSP_CODE[2:0], RSP_DATA[31:0])` (30_encoding.md R47). -/
structure Response where
  code : BitVec 3
  data : Word32
  deriving DecidableEq, Repr

/-- The complete state of the block, 100 bits (10_state.md R22). -/
structure Block where
  /-- `CRC` (R12). -/
  crc : Byte
  /-- `POLY` (R13). -/
  poly : Byte
  /-- `INIT` (R14). -/
  init : Byte
  /-- `FB[0..5]` (R16). -/
  fb : Vector Byte 6
  /-- `FLEN` (R17). -/
  flen : BitVec 3
  /-- `R24` (R18). -/
  r24 : Reading24
  /-- `R24V` (R19). -/
  r24v : Bool
  deriving DecidableEq, Repr

/-- What can come from outside the block: a command word on the command port (30_encoding.md R40), or a reset
(70_reset_and_hazards.md R130). -/
inductive Input
  | command (word : Cmd16)
  | reset
  deriving DecidableEq, Repr

/-- The block with its two ports. `block` is all the state the spec gives the block; the other three fields are the
model's own and no meaning reads them (notes/assumptions/1.md, 3.md, 4.md). -/
structure State where
  /-- The 100 bits of the block. -/
  block : Block
  /-- What was issued to the block and not yet taken, oldest first. -/
  pending : List Input
  /-- The responses returned since the last reset, oldest first (70_reset_and_hazards.md R140). -/
  responses : List Response
  /-- The number of the current draw of the unspecified reset values. -/
  resets : Nat
  deriving DecidableEq, Repr

/-- The block after the reset numbered `draw` (70_reset_and_hazards.md R130): five registers fixed, `FB` and `R24`
unspecified. -/
def resetBlock (draw : Nat) : Block where
  crc := 0xFF
  poly := 0x31
  init := 0xFF
  fb := #v[Config.unspecifiedFrameByte draw 0, Config.unspecifiedFrameByte draw 1, Config.unspecifiedFrameByte draw 2,
    Config.unspecifiedFrameByte draw 3, Config.unspecifiedFrameByte draw 4, Config.unspecifiedFrameByte draw 5]
  flen := 0
  r24 := Config.unspecifiedReading draw
  r24v := false

/-- The machine right after reset: nothing issued, no response yet (10_state.md R20, 70_reset_and_hazards.md R130,
R131). -/
def State.reset : State where
  block := resetBlock 0
  pending := []
  responses := []
  resets := 0

end Sys2Proof.Machine
end

