-- ==== Sys2Proof/Machine/CrcFunctions.lean ====
section
/-! DEFINITION. The pure CRC-8 functions of the source (40_crc.md R60 to R63). -/

namespace Sys2Proof.Machine

/-- `crc_shift1(r, p)`, one bit step (40_crc.md R60). The left shift of an 8-bit value drops the bit shifted out. -/
def crcShift1 (r p : Byte) : Byte := if r.getLsbD 7 then (r <<< 1) ^^^ p else r <<< 1

/-- `k` bit steps, the loop of 40_crc.md R61. -/
def crcSteps : Nat → Byte → Byte → Byte
  | 0, t, _ => t
  | k + 1, t, p => crcSteps k (crcShift1 t p) p

/-- `crc_byte(r, b, p)`: the byte is XORed in once, then eight bit steps (40_crc.md R61). -/
def crcByteStep (r b p : Byte) : Byte := crcSteps 8 (r ^^^ b) p

/-- `crc8(data, p, i)`: bytes in index order, no final XOR and no reflection (40_crc.md R62). -/
def crc8 (data : List Byte) (p i : Byte) : Byte := data.foldl (fun r b => crcByteStep r b p) i

/-- The checksum of the dual-frame checks, whose parameters are hardwired (40_crc.md R63). -/
def frameChecksum (data : List Byte) : Byte := crc8 data Config.defaultPoly Config.defaultInit

end Sys2Proof.Machine
end

