-- ==== Sys2Proof/Machine/Flags.lean ====
section
/-! DEFINITION. The block's only flag, `R24V`, with the register it guards (10_state.md R18, R19). The block has no
condition codes. -/

namespace Sys2Proof.Machine

/-- A successful `frm.single` latches its reading and sets the flag (41_frame.md R90). -/
def Block.latchReading (b : Block) (v : Reading24) : Block := { b with r24 := v, r24v := true }

/-- A failed `frm.single` clears the flag; `R24` keeps its bits, which nothing can read (41_frame.md R90). -/
def Block.dropReading (b : Block) : Block := { b with r24v := false }

/-- The reading `sext24` may convert: there is one only while `R24V = 1` (10_state.md R18, R19). -/
def Block.latched? (b : Block) : Option Reading24 := if b.r24v then some b.r24 else none

end Sys2Proof.Machine
end

