-- ==== Sys2Proof/Machine/Operands.lean ====
section
/-! DEFINITION. How bytes become operands and readings, and how results become response data: extension, big-endian
assembly, the signed-24-bit correction and the packings of a response. -/

namespace Sys2Proof.Machine

/-- `zext_32(v)`: the unsigned value placed in 32 bits (00_scope.md R6, 30_encoding.md R41). -/
def zext32 {n : Nat} (v : BitVec n) : Word32 := v.setWidth 32

/-- `sext_32(v)` of a 24-bit pattern (00_scope.md R6, 41_frame.md R82). -/
def sext32 (v : Reading24) : Word32 := v.signExtend 32

/-- `be16(h, l)` (41_frame.md R80). -/
def be16 (h l : Byte) : Reading16 := (h.setWidth 16 <<< 8) ||| l.setWidth 16

/-- `be24(b0, b1, b2)` (41_frame.md R81). -/
def be24 (b0 b1 b2 : Byte) : Reading24 := (b0.setWidth 24 <<< 16) ||| (b1.setWidth 24 <<< 8) ||| b2.setWidth 24

/-- `sext24(u)`, the signed-24-bit correction as an integer (41_frame.md R82). -/
def sext24 (u : Reading24) : Int := if u.toNat ≥ 2 ^ 23 then (u.toNat : Int) - 2 ^ 24 else (u.toNat : Int)

/-- `{INIT, POLY}` (40_crc.md R70). -/
def packConfig (init poly : Byte) : Word32 := zext32 (init ++ poly)

/-- `{A, B}`: reading A in the upper lane, reading B in the lower (41_frame.md R93). -/
def packDual (a b : Reading16) : Word32 := a ++ b

/-- `{k, computed, received}` (41_frame.md R93): which reading failed, 0 for A and 1 for B. -/
def packMismatch (k : BitVec 1) (computed received : Byte) : Word32 := zext32 (k ++ computed ++ received)

end Sys2Proof.Machine
end

