-- ==== Sys2Proof/Machine/Ops.lean ====
section
/-! DEFINITION. The operations the meanings share: register writes, the frame buffer, how a command ends (with OK or
with a raise), the illegal command, reset, and the host's side of the command port. -/

namespace Sys2Proof.Machine

/-- The 3-bit value of a response code (60_exceptions.md R111). -/
def RspCode.bits : RspCode → BitVec 3
  | .ok => 0
  | .invalidFrameLength => 1
  | .checksumMismatch => 2
  | .illegalCommand => 3
  | .noValue => 4

/-- `CRC <- v` (10_state.md R12). -/
def Block.setCrc (b : Block) (v : Byte) : Block := { b with crc := v }

/-- `POLY <- v` (10_state.md R13). -/
def Block.setPoly (b : Block) (v : Byte) : Block := { b with poly := v }

/-- `INIT <- v` (10_state.md R14). -/
def Block.setInit (b : Block) (v : Byte) : Block := { b with init := v }

/-- `FLEN <- 0`; the entries of `FB` keep their bytes (10_state.md R16, 41_frame.md R86). -/
def Block.clearFrame (b : Block) : Block := { b with flen := 0 }

/-- `FB[FLEN] <- v` when `FLEN < 6`; a byte past the sixth is dropped (41_frame.md R87). -/
def storeFrameByte (fb : Vector Byte 6) (flen : BitVec 3) (v : Byte) : Vector Byte 6 :=
  if h : flen.toNat < 6 then fb.set flen.toNat v h else fb

/-- `min(FLEN + 1, 7)` (10_state.md R17, 41_frame.md R87). -/
def countPush (flen : BitVec 3) : BitVec 3 := BitVec.ofNat 3 (min (flen.toNat + 1) Config.lengthLimit)

/-- The two writes of `frm.push`, the byte before the count (41_frame.md R87). -/
def Block.pushByte (b : Block) (v : Byte) : Block :=
  { b with fb := storeFrameByte b.fb b.flen v, flen := countPush b.flen }

/-- `respond(code, data)` (00_scope.md R7). -/
def respond (c : RspCode) (d : Word32) : Response := ⟨c.bits, d⟩

/-- A command that completes: the block as its writes leave it, and `respond(OK, data)` (00_scope.md R7). -/
def Block.finish (b : Block) (d : Word32) : Block × Response := (b, respond .ok d)

/-- TAKING AN ERROR, `raise E(data)`: the writes made before it stand, nothing after it runs, and the command ends
with the error's response (00_scope.md R7, 60_exceptions.md R110). The block has no trap entry and no return from one
(R118). -/
def Block.raise (b : Block) (e : RspCode) (d : Word32) : Block × Response := (b, respond e d)

/-- The state after a command ended: the block as the command left it and one response more (30_encoding.md R46). -/
def State.answer (s : State) (b : Block) (r : Response) : State :=
  { s with block := b, responses := s.responses ++ [r] }

/-- How every command ends: it answers a next state (60_exceptions.md R110). -/
def State.complete (s : State) (r : Block × Response) : Host.Outcome State Fault Refusal := .next (s.answer r.1 r.2)

/-- An illegal word: ILLEGAL_COMMAND with the whole word, no write (30_encoding.md R44, 60_exceptions.md R114). -/
def illegalCommand (w : Cmd16) (b : Block) : Block × Response := b.raise .illegalCommand (zext32 w)

/-- Reset (70_reset_and_hazards.md R130): the five fixed registers, and a new draw of the unspecified ones. No response
exists before the first command after it (10_state.md R20; notes/assumptions/4.md, 6.md, 7.md). -/
def State.takeReset (s : State) : State :=
  { s with block := resetBlock (s.resets + 1), responses := [], resets := s.resets + 1 }

/-- The oldest input and the state without it; none when nothing is issued (20_memory.md R38). -/
def State.takeInput? (s : State) : Option (Input × State) :=
  match s.pending with
  | [] => none
  | x :: rest => some (x, { s with pending := rest })

/-- The host issues inputs, in order, after those it already issued (10_state.md R10, 20_memory.md R38). -/
def State.issue (s : State) (xs : List Input) : State := { s with pending := s.pending ++ xs }

/-- One input put where the next step takes it. -/
def State.issueFirst (s : State) (x : Input) : State := { s with pending := x :: s.pending }

end Sys2Proof.Machine
end

