-- ==== Sys2Proof/Machine/CrcEngine.lean ====
section
/-! DEFINITION. The meanings of the six commands of the CRC engine (40_crc.md R65 to R70). Each is the block's
transition and response, then its lift to the machine. -/

namespace Sys2Proof.Machine

/-- `CRC <- INIT; respond(OK, zext_32(CRC))` (40_crc.md R65). -/
def crcInit (b : Block) : Block × Response := (b.setCrc b.init).finish (zext32 b.init)

/-- `CRC <- crc_byte(CRC, IMM8, POLY); respond(OK, zext_32(CRC))` (40_crc.md R66). -/
def crcByte (imm : Byte) (b : Block) : Block × Response :=
  (b.setCrc (crcByteStep b.crc imm b.poly)).finish (zext32 (crcByteStep b.crc imm b.poly))

/-- `respond(OK, zext_32(CRC))` (40_crc.md R67). -/
def crcRead (b : Block) : Block × Response := b.finish (zext32 b.crc)

/-- `POLY <- IMM8; respond(OK, zext_32(POLY))` (40_crc.md R68). -/
def crcSetpoly (imm : Byte) (b : Block) : Block × Response := (b.setPoly imm).finish (zext32 imm)

/-- `INIT <- IMM8; respond(OK, zext_32(INIT))` (40_crc.md R69). -/
def crcSetinit (imm : Byte) (b : Block) : Block × Response := (b.setInit imm).finish (zext32 imm)

/-- `respond(OK, zext_32({INIT, POLY}))` (40_crc.md R70). -/
def crcGetcfg (b : Block) : Block × Response := b.finish (packConfig b.init b.poly)

/-- The meaning of `crc.init`. -/
def execCrcInit (s : State) : Host.Outcome State Fault Refusal := s.complete (crcInit s.block)

/-- The meaning of `crc.byte`. -/
def execCrcByte (imm : Byte) (s : State) : Host.Outcome State Fault Refusal := s.complete (crcByte imm s.block)

/-- The meaning of `crc.read`. -/
def execCrcRead (s : State) : Host.Outcome State Fault Refusal := s.complete (crcRead s.block)

/-- The meaning of `crc.setpoly`. -/
def execCrcSetpoly (imm : Byte) (s : State) : Host.Outcome State Fault Refusal := s.complete (crcSetpoly imm s.block)

/-- The meaning of `crc.setinit`. -/
def execCrcSetinit (imm : Byte) (s : State) : Host.Outcome State Fault Refusal := s.complete (crcSetinit imm s.block)

/-- The meaning of `crc.getcfg`. -/
def execCrcGetcfg (s : State) : Host.Outcome State Fault Refusal := s.complete (crcGetcfg s.block)

end Sys2Proof.Machine
end

