-- ==== Sys2Proof/Machine/FrameFunctions.lean ====
section
/-! DEFINITION. The pure frame functions of the source (41_frame.md R83 to R85) and the encoding `enc` of their results
as responses (R92). -/

namespace Sys2Proof.Machine

/-- What `parse_dual` returns (41_frame.md R83). -/
inductive DualResult
  | ok (a b : Reading16)
  | invalidFrameLength (n : Nat)
  | checksumMismatch (k : BitVec 1) (received computed : Byte)
  deriving DecidableEq, Repr

/-- What `parse_single` returns (41_frame.md R84). -/
inductive SingleResult
  | ok (v : Reading24)
  | invalidFrameLength (n : Nat)
  deriving DecidableEq, Repr

/-- The checks of a dual frame whose length is right: A first, then B (41_frame.md R83). -/
def checkDual (f0 f1 f2 f3 f4 f5 : Byte) : DualResult :=
  if frameChecksum [f0, f1] ≠ f2 then .checksumMismatch 0 f2 (frameChecksum [f0, f1])
  else if frameChecksum [f3, f4] ≠ f5 then .checksumMismatch 1 f5 (frameChecksum [f3, f4])
  else .ok (be16 f0 f1) (be16 f3 f4)

/-- `parse_dual(f)` for a byte sequence of any length (41_frame.md R83). -/
def parseDual : List Byte → DualResult
  | [f0, f1, f2, f3, f4, f5] => checkDual f0 f1 f2 f3 f4 f5
  | f => .invalidFrameLength f.length

/-- `parse_single(f)` for a byte sequence of any length (41_frame.md R84). -/
def parseSingle : List Byte → SingleResult
  | [f0, f1, f2] => .ok (be24 f0 f1 f2)
  | f => .invalidFrameLength f.length

/-- The length a response reports: `min(n, 7)` (41_frame.md R92). -/
def reportedLength (n : Nat) : Word32 := BitVec.ofNat 32 (min n Config.lengthLimit)

/-- `enc` of a `parse_dual` result (41_frame.md R92). -/
def DualResult.enc : DualResult → Response
  | .ok a b => respond .ok (packDual a b)
  | .invalidFrameLength n => respond .invalidFrameLength (reportedLength n)
  | .checksumMismatch k received computed => respond .checksumMismatch (packMismatch k computed received)

/-- `enc` of a `parse_single` result (41_frame.md R92). -/
def SingleResult.enc : SingleResult → Response
  | .ok v => respond .ok (zext32 v)
  | .invalidFrameLength n => respond .invalidFrameLength (reportedLength n)

/-- The frame that encodes two readings, each with its checksum (41_frame.md R96). -/
def dualFrameOf (a b : Reading16) : List Byte :=
  [a.extractLsb' 8 8, a.extractLsb' 0 8, frameChecksum [a.extractLsb' 8 8, a.extractLsb' 0 8],
   b.extractLsb' 8 8, b.extractLsb' 0 8, frameChecksum [b.extractLsb' 8 8, b.extractLsb' 0 8]]

/-- The frame that encodes a 24-bit reading (41_frame.md R96). -/
def singleFrameOf (v : Reading24) : List Byte := [v.extractLsb' 16 8, v.extractLsb' 8 8, v.extractLsb' 0 8]

end Sys2Proof.Machine
end

