-- ==== Sys2Proof/Machine/FrameParser.lean ====
section
/-! DEFINITION. The meanings of the six commands of the frame parser (41_frame.md R86 to R91), written from each rule's
pseudocode. That they realise `parse_dual` and `parse_single` is a statement (R92). -/

namespace Sys2Proof.Machine

/-- `FLEN <- 0; respond(OK, 0)` (41_frame.md R86). -/
def frmClear (b : Block) : Block × Response := b.clearFrame.finish 0

/-- `frm.push`: the byte, the count, `respond(OK, zext_32(FLEN))` (41_frame.md R87). -/
def frmPush (imm : Byte) (b : Block) : Block × Response := (b.pushByte imm).finish (zext32 (countPush b.flen))

/-- `respond(OK, zext_32(FLEN))` (41_frame.md R88). -/
def frmLen (b : Block) : Block × Response := b.finish (zext32 b.flen)

/-- `frm.dual`: length, checksum A, checksum B, then both readings; no write on any path (41_frame.md R89,
60_exceptions.md R116). -/
def frmDual (b : Block) : Block × Response :=
  if b.flen.toNat ≠ Config.dualLength then b.raise .invalidFrameLength (zext32 b.flen)
  else if frameChecksum [b.fb[0], b.fb[1]] ≠ b.fb[2] then
    b.raise .checksumMismatch (packMismatch 0 (frameChecksum [b.fb[0], b.fb[1]]) b.fb[2])
  else if frameChecksum [b.fb[3], b.fb[4]] ≠ b.fb[5] then
    b.raise .checksumMismatch (packMismatch 1 (frameChecksum [b.fb[3], b.fb[4]]) b.fb[5])
  else b.finish (packDual (be16 b.fb[0] b.fb[1]) (be16 b.fb[3] b.fb[4]))

/-- `frm.single`: on a wrong length `R24V <- 0` and then the raise; else the reading is latched and returned
(41_frame.md R90). -/
def frmSingle (b : Block) : Block × Response :=
  if b.flen.toNat ≠ Config.singleLength then b.dropReading.raise .invalidFrameLength (zext32 b.flen)
  else (b.latchReading (be24 b.fb[0] b.fb[1] b.fb[2])).finish (zext32 (be24 b.fb[0] b.fb[1] b.fb[2]))

/-- `sext24`: NO_VALUE while nothing is latched, else `respond(OK, sext_32(R24))` (41_frame.md R91). -/
def sext24Cmd (b : Block) : Block × Response :=
  match b.latched? with
  | none => b.raise .noValue 0
  | some v => b.finish (sext32 v)

/-- The meaning of `frm.clear`. -/
def execFrmClear (s : State) : Host.Outcome State Fault Refusal := s.complete (frmClear s.block)

/-- The meaning of `frm.push`. -/
def execFrmPush (imm : Byte) (s : State) : Host.Outcome State Fault Refusal := s.complete (frmPush imm s.block)

/-- The meaning of `frm.len`. -/
def execFrmLen (s : State) : Host.Outcome State Fault Refusal := s.complete (frmLen s.block)

/-- The meaning of `frm.dual`. -/
def execFrmDual (s : State) : Host.Outcome State Fault Refusal := s.complete (frmDual s.block)

/-- The meaning of `frm.single`. -/
def execFrmSingle (s : State) : Host.Outcome State Fault Refusal := s.complete (frmSingle s.block)

/-- The meaning of `sext24`. -/
def execSext24 (s : State) : Host.Outcome State Fault Refusal := s.complete (sext24Cmd s.block)

end Sys2Proof.Machine
end

