-- ==== Sys2Proof/Machine/Dispatch.lean ====
section
/-! DEFINITION. One arm for each command: a direct call of its meaning. -/

namespace Sys2Proof.Machine

/-- What a command does (30_encoding.md R43: each rule performs its operation). -/
def exec (i : Instr) (s : State) : Host.Outcome State Fault Refusal :=
  match i with
  | .crcInit => Sys2Proof.Machine.execCrcInit s
  | .crcByte b => Sys2Proof.Machine.execCrcByte b s
  | .crcRead => Sys2Proof.Machine.execCrcRead s
  | .crcSetpoly p => Sys2Proof.Machine.execCrcSetpoly p s
  | .crcSetinit v => Sys2Proof.Machine.execCrcSetinit v s
  | .crcGetcfg => Sys2Proof.Machine.execCrcGetcfg s
  | .frmClear => Sys2Proof.Machine.execFrmClear s
  | .frmPush b => Sys2Proof.Machine.execFrmPush b s
  | .frmLen => Sys2Proof.Machine.execFrmLen s
  | .frmDual => Sys2Proof.Machine.execFrmDual s
  | .frmSingle => Sys2Proof.Machine.execFrmSingle s
  | .sext24 => Sys2Proof.Machine.execSext24 s

end Sys2Proof.Machine
end

