-- ==== Sys2Proof/Machine/Step.lean ====
section
/-! DEFINITION. One step of the machine: the block takes the oldest input, if there is one. -/

namespace Sys2Proof.Machine

/-- Decoding comes before the operation; an illegal word ends with its response and has no effect
(30_encoding.md R43, 60_exceptions.md R114, R116). -/
def runCommand (w : Cmd16) (s : State) : Host.Outcome State Fault Refusal :=
  match decode w with
  | .legal i => exec i s
  | .illegal _ => s.complete (illegalCommand w s.block)

/-- One atomic step (10_state.md R10, 20_memory.md R38): the oldest command runs, or a reset is taken. With nothing
issued the block waits and nothing changes (70_reset_and_hazards.md R131; notes/assumptions/2.md). -/
def step (s : State) : Host.Outcome State Fault Refusal :=
  match s.takeInput? with
  | none => .next s
  | some (.command w, s') => runCommand w s'
  | some (.reset, s') => .next s'.takeReset

/-- The state with a table word on the command port, ahead of what is already issued, so that the next step takes
exactly that word. -/
def State.withFetchWord (s : State) (nbits w : Nat) : State := s.issueFirst (.command (tableWord nbits w))

end Sys2Proof.Machine
end

