-- ==== Sys2Proof/Machine/Assembler.lean ====
section
/-! DEFINITION. The assembler's text (30_encoding.md R48) and the pseudo-instructions (R49). What the rules leave open
of the text's layout is chosen here and logged in notes/assumptions/11.md. -/

namespace Sys2Proof.Machine

/-- The twelve mnemonics, in the table's order (30_encoding.md R42). -/
def allMnemonics : List Mnemonic :=
  [.crcInit, .crcByte, .crcRead, .crcSetpoly, .crcSetinit, .crcGetcfg,
   .frmClear, .frmPush, .frmLen, .frmDual, .frmSingle, .sext24]

/-- How a mnemonic is written, in lower case (30_encoding.md R42, R48). -/
def mnemonicText : Mnemonic → List Char
  | .crcInit => "crc.init".toList
  | .crcByte => "crc.byte".toList
  | .crcRead => "crc.read".toList
  | .crcSetpoly => "crc.setpoly".toList
  | .crcSetinit => "crc.setinit".toList
  | .crcGetcfg => "crc.getcfg".toList
  | .frmClear => "frm.clear".toList
  | .frmPush => "frm.push".toList
  | .frmLen => "frm.len".toList
  | .frmDual => "frm.dual".toList
  | .frmSingle => "frm.single".toList
  | .sext24 => "sext24".toList

/-- The commands a pseudo-instruction stands for, in order (30_encoding.md R49). -/
def expand : Pseudo → List Instr
  | .crcSeq bytes => .crcInit :: bytes.map .crcByte
  | .crcConfig p i => [.crcSetpoly p, .crcSetinit i]
  | .frmLoad bytes => .frmClear :: bytes.map .frmPush

/-- The word of a source line: `{OP, IMM8}` when the line passes the checks, else why not (30_encoding.md R48). -/
def assembleCommand (l : AsmLine) : Except AsmError Cmd16 :=
  match l.problem with
  | some e => .error e
  | none => .ok (commandWord l.mnemonic.op (BitVec.ofNat 8 (l.operand.getD 0)))

/-- Spaces and tabs separate the parts of a line. -/
def isBlank (c : Char) : Bool := c == ' ' || c == '\t'

/-- A text without the blanks at its two ends. -/
def trimBlanks (cs : List Char) : List Char := ((cs.dropWhile isBlank).reverse.dropWhile isBlank).reverse

/-- The value of a decimal digit. -/
def decimalDigit? (c : Char) : Option Nat :=
  if '0'.toNat ≤ c.toNat ∧ c.toNat ≤ '9'.toNat then some (c.toNat - '0'.toNat) else none

/-- The value of a hex digit, in either case. -/
def hexDigit? (c : Char) : Option Nat :=
  if 'a'.toNat ≤ c.toNat ∧ c.toNat ≤ 'f'.toNat then some (c.toNat - 'a'.toNat + 10)
  else if 'A'.toNat ≤ c.toNat ∧ c.toNat ≤ 'F'.toNat then some (c.toNat - 'A'.toNat + 10)
  else decimalDigit? c

/-- Reads digits in a base, most significant first, after the value `acc`. -/
def readDigits (base : Nat) (digit? : Char → Option Nat) : Nat → List Char → Option Nat
  | acc, [] => some acc
  | acc, c :: cs =>
    match digit? c with
    | none => none
    | some d => readDigits base digit? (acc * base + d) cs

/-- An operand, written in decimal or as `0x` followed by hex digits (30_encoding.md R48). -/
def readOperand : List Char → Option Nat
  | [] => none
  | ['0', 'x'] => none
  | '0' :: 'x' :: ds => readDigits 16 hexDigit? 0 ds
  | ds => readDigits 10 decimalDigit? 0 ds

/-- The pieces between commas; one piece when there is none. -/
def splitCommas : List Char → List (List Char)
  | [] => [[]]
  | c :: cs =>
    if c == ',' then [] :: splitCommas cs
    else
      match splitCommas cs with
      | [] => [[c]]
      | piece :: rest => (c :: piece) :: rest

/-- The operands of a line, in order; none at all when the text is blank, and no reading when one is malformed. -/
def readOperands (cs : List Char) : Option (List Nat) :=
  match trimBlanks cs with
  | [] => some []
  | ds => (splitCommas ds).mapM fun piece => readOperand (trimBlanks piece)

/-- The line's byte operands, when every one lies in 0..255 (30_encoding.md R48, R49). -/
def byteOperands (ns : List Nat) : Except AsmError (List Byte) :=
  if ns.all (· < 256) then .ok (ns.map (BitVec.ofNat 8)) else .error .operandOutOfRange

/-- A pseudo-instruction by its name and operands (30_encoding.md R49). -/
def pseudoOf (name : List Char) (bytes : List Byte) : Except AsmError Pseudo :=
  if name = "crc.seq".toList then .ok (.crcSeq bytes)
  else if name = "frm.load".toList then .ok (.frmLoad bytes)
  else if name = "crc.config".toList then
    match bytes with
    | [p, i] => .ok (.crcConfig p i)
    | _ => .error .wrongOperandCount
  else .error .unknownMnemonic

/-- The command with one mnemonic and the operands as written: at most one operand (30_encoding.md R48). -/
def assembleMnemonic (m : Mnemonic) : List Nat → Except AsmError (List Cmd16)
  | [] => (assembleCommand ⟨m, none⟩).map fun w => [w]
  | [n] => (assembleCommand ⟨m, some n⟩).map fun w => [w]
  | _ => .error .wrongOperandCount

/-- The words of the pseudo-instruction with one name and the operands as written (30_encoding.md R49). -/
def assemblePseudo (name : List Char) (ns : List Nat) : Except AsmError (List Cmd16) :=
  match byteOperands ns with
  | .error e => .error e
  | .ok bytes => (pseudoOf name bytes).map fun p => (expand p).map encode

/-- Whether a name is one of the three of 30_encoding.md R49. -/
def isPseudoName (name : List Char) : Bool :=
  name == "crc.seq".toList || name == "frm.load".toList || name == "crc.config".toList

/-- The text of a line without its comment: `;` begins one that runs to the end of the line (30_encoding.md R48). -/
def stripComment (line : List Char) : List Char := line.takeWhile (· != ';')

/-- The words of a line that holds something: its first word is a mnemonic or a pseudo-instruction's name, the rest
its operands. -/
def assembleText (name rest : List Char) : Except AsmError (List Cmd16) :=
  match allMnemonics.find? (fun m => mnemonicText m == name) with
  | some m =>
    match readOperands rest with
    | none => .error .malformedOperand
    | some ns => assembleMnemonic m ns
  | none =>
    if isPseudoName name then
      match readOperands rest with
      | none => .error .malformedOperand
      | some ns => assemblePseudo name ns
    else .error .unknownMnemonic

/-- The words a line of assembler source stands for (30_encoding.md R48, R49). A line that holds nothing but blanks
and a comment stands for no word. -/
def assembleLine (line : List Char) : Except AsmError (List Cmd16) :=
  match trimBlanks (stripComment line) with
  | [] => .ok []
  | cs => assembleText (cs.takeWhile fun c => !isBlank c) (cs.dropWhile fun c => !isBlank c)

/-- The character of a hex digit below 16. -/
def hexChar (n : Nat) : Char := if n < 10 then Char.ofNat ('0'.toNat + n) else Char.ofNat ('A'.toNat + (n - 10))

/-- How a byte operand is written: `0x` and two hex digits (30_encoding.md R48). -/
def byteText (b : Byte) : List Char := ['0', 'x', hexChar (b.toNat / 16), hexChar (b.toNat % 16)]

/-- A command as a line of assembler source (30_encoding.md R48). -/
def renderLine (i : Instr) : List Char :=
  match i.operand with
  | none => mnemonicText i.mnemonic
  | some b => mnemonicText i.mnemonic ++ ' ' :: byteText b

end Sys2Proof.Machine
end

