-- ==== Sys2Proof/Safety.lean ====
section
/-! DEFINITION. The terms claims are stated in: runs of commands, reset states, what the host cannot tell apart, the
invariant every step keeps, and the host's duties as premises (70_reset_and_hazards.md R133 to R136). -/

namespace Sys2Proof.Machine

/-- The inputs that carry commands. -/
def commandInputs (cs : List Instr) : List Input := cs.map fun i => .command (encode i)

/-- A run of `n` steps that does not stop, and the state it ends in. -/
abbrev Runs (n : Nat) (s t : State) : Prop := Host.Core.run Sys2Proof.core n s = .next t

/-- A safe run: it never faults and is never refused (60_exceptions.md R110). -/
abbrev SafeFor (n : Nat) (s : State) : Prop := ∃ t : State, Runs n s t

/-- The reset states (70_reset_and_hazards.md R130): the blocks that agree on the five fixed registers, with any value
in `FB` and `R24`. -/
abbrev Block.IsReset (b : Block) : Prop :=
  b.crc = 0xFF ∧ b.poly = 0x31 ∧ b.init = 0xFF ∧ b.flen = 0 ∧ b.r24v = false

/-- Two blocks that agree on all a command can read: the entries of `FB` below `FLEN`, and `R24` while `R24V = 1`
(10_state.md R16, R18). -/
abbrev Block.SameToHost (a b : Block) : Prop :=
  a.crc = b.crc ∧ a.poly = b.poly ∧ a.init = b.init ∧ a.flen = b.flen ∧ a.r24v = b.r24v ∧
    (∀ k : Fin 6, k.val < a.flen.toNat → a.fb[k] = b.fb[k]) ∧ (a.r24v = true → a.r24 = b.r24)

/-- What 30_encoding.md R42 to R44 say of the words of a form-N operation: with `IMM8 = 0x00` the word is the command,
with any other `IMM8` it is illegal, and issued it changes nothing and answers ILLEGAL_COMMAND (3) with the word. -/
def FormNWords (op : Byte) (i : Instr) : Prop :=
  decode (commandWord op 0) = .legal i ∧
    ∀ (imm : Byte) (s : State) (rest : List Input), imm ≠ 0 → s.pending = .command (commandWord op imm) :: rest →
      step s = .next { s with pending := rest,
                              responses := s.responses ++ [⟨3, (commandWord op imm).setWidth 32⟩] }

/-- What 30_encoding.md R42 and R43 say of the words of a form-I operation: every one is the command with its `IMM8`
as operand. -/
def FormIWords (op : Byte) (command : Byte → Instr) : Prop :=
  ∀ imm : Byte, decode (commandWord op imm) = .legal (command imm)

/-- A response of the shape its code allows (30_encoding.md R44, R47, 41_frame.md R93, 60_exceptions.md R111): a length
error reports a length that is wrong for some frame, a mismatch reports two different bytes and the index, an illegal
command reports an illegal word, NO_VALUE reports 0, and there is no code above 4. -/
def Response.lawful (r : Response) : Bool :=
  match r.code.toNat with
  | 0 => true
  | 1 => decide (r.data.toNat < 8)
  | 2 => decide (r.data.toNat < 2 ^ 17) && (r.data.extractLsb' 8 8 != r.data.extractLsb' 0 8)
  | 3 => decide (r.data.toNat < 2 ^ 16) && !(decode (r.data.setWidth 16)).isLegal
  | 4 => r.data == 0
  | _ => false

/-- The invariant of the machine: every response returned since the last reset is lawful, and a reading that is
latched was returned to the host in an OK response (41_frame.md R85, R90, 10_state.md R19). -/
abbrev State.Inv (s : State) : Prop :=
  (∀ r ∈ s.responses, r.lawful = true) ∧
    (s.block.r24v = true → (⟨0, zext32 s.block.r24⟩ : Response) ∈ s.responses)

/-- HOST DUTY (70_reset_and_hazards.md R133): the CRC-engine commands of a run are one new checksum, started by
`crc.init`; the commands of the frame parser may stand anywhere among them (40_crc.md R71). -/
abbrev FreshChecksum (cs : List Instr) (bytes : List Byte) : Prop :=
  cs.filter Instr.isCrcEngine = expand (.crcSeq bytes)

/-- HOST DUTY (70_reset_and_hazards.md R134, R136): the frame commands of a run hand the block one new frame, started
by `frm.clear`, its bytes in index order; the commands of the CRC engine may stand anywhere among them
(41_frame.md R92). -/
abbrev FreshFrame (cs : List Instr) (frame : List Byte) : Prop :=
  cs.filter (fun i => !i.isCrcEngine) = expand (.frmLoad frame)

/-- HOST DUTY (70_reset_and_hazards.md R135): the data of a response is a reading only under OK. -/
def Response.reading? (r : Response) : Option Word32 := if r.code = RspCode.ok.bits then some r.data else none

/-- The number of bits of an error pattern that are set (40_crc.md R64). -/
def weight {n : Nat} (e : BitVec n) : Nat := ((List.range n).filter fun k => e.getLsbD k).length

/-- An error pattern confined to eight neighbouring bits (40_crc.md R64, 41_frame.md R95). -/
abbrev IsBurst8 {n : Nat} (e : BitVec n) : Prop := ∃ k : Nat, ∀ j : Nat, e.getLsbD j = true → k ≤ j ∧ j < k + 8

/-- A frame with an error pattern XORed into three of its bytes, the first of the three taking bits 23:16. -/
def flipBytes (e : BitVec 24) (f0 f1 f2 : Byte) : List Byte :=
  [f0 ^^^ e.extractLsb' 16 8, f1 ^^^ e.extractLsb' 8 8, f2 ^^^ e.extractLsb' 0 8]

end Sys2Proof.Machine
end

