-- ==== Sys2Proof/Certificates/Slice0/Obligations.lean ====
section
/-! DEFINITION. The statements for the provers. Where a response stands (the list `responses`) and where a command waits
(the list `pending`) are the model's choices (notes/assumptions/1.md, 3.md); what is answered is the spec's. -/

open Sys2Proof Sys2Proof.Machine

/-! ### Encoding -/

/-- Decoding undoes encoding for every command and every operand, and a word that decodes to a command is that
command's word. -/
def Obligations.DecodeAndEncodeAreInverse : Prop :=
  (∀ i : Instr, decode (encode i) = .legal i) ∧ ∀ (w : Cmd16) (i : Instr), decode w = .legal i → encode i = w

/-- 30_encoding.md R42: the decoder agrees with the match and mask of every row, and decodes nothing else. -/
def Obligations.DecoderAgreesWithMatchAndMask : Prop :=
  let table : List (Mnemonic × Cmd16 × Cmd16) :=
    [(.crcInit, 0x0100, 0xFFFF), (.crcByte, 0x0200, 0xFF00), (.crcRead, 0x0300, 0xFFFF),
     (.crcSetpoly, 0x0400, 0xFF00), (.crcSetinit, 0x0500, 0xFF00), (.crcGetcfg, 0x0600, 0xFFFF),
     (.frmClear, 0x1000, 0xFFFF), (.frmPush, 0x1100, 0xFF00), (.frmLen, 0x1200, 0xFFFF),
     (.frmDual, 0x1300, 0xFFFF), (.frmSingle, 0x1400, 0xFFFF), (.sext24, 0x1500, 0xFFFF)]
  (∀ row ∈ table, ∀ w : Cmd16, w &&& row.2.2 = row.2.1 ↔ ∃ i : Instr, decode w = .legal i ∧ i.mnemonic = row.1) ∧
    ∀ (w : Cmd16) (i : Instr), decode w = .legal i → ∃ row ∈ table, i.mnemonic = row.1 ∧ w &&& row.2.2 = row.2.1

/-- 30_encoding.md R44: an unassigned `OP` (244 of them) has 256 illegal words, a form-N `OP` (8 of them) has 255, a
form-I `OP` none; in all 64504 words are illegal and 1032 legal. 60_exceptions.md R114 with it: every illegal word
answers ILLEGAL_COMMAND with itself and changes nothing, `R24V` included. -/
def Obligations.IllegalWordsAreCountedAndHaveNoEffect : Prop :=
  let formN : List Byte := [0x01, 0x03, 0x06, 0x10, 0x12, 0x13, 0x14, 0x15]
  let formI : List Byte := [0x02, 0x04, 0x05, 0x11]
  let illegalWords (op : Byte) : Nat :=
    ((List.range 256).filter fun n => !(decode (commandWord op (BitVec.ofNat 8 n))).isLegal).length
  (∀ op : Byte, op ∉ formN ++ formI → illegalWords op = 256) ∧
  (∀ op ∈ formN, illegalWords op = 255 ∧ (decode (commandWord op 0)).isLegal = true) ∧
  (∀ op ∈ formI, illegalWords op = 0) ∧
  ((List.range 256).filter fun n => BitVec.ofNat 8 n ∉ formN ++ formI).length = 244 ∧
  ((List.range 256).map fun n => illegalWords (BitVec.ofNat 8 n)).sum = 64504 ∧
  ((List.range 256).map fun n => 256 - illegalWords (BitVec.ofNat 8 n)).sum = 1032 ∧
  ∀ (w : Cmd16) (s : State) (rest : List Input), (decode w).isLegal = false → s.pending = .command w :: rest →
    step s = .next { s with pending := rest, responses := s.responses ++ [⟨3, w.setWidth 32⟩] }

/-- 30_encoding.md R41: the operand is the low byte of the word, unsigned and unscaled, and a response that returns it
zero-extends it. -/
def Obligations.OperandIsTheUnsignedLowByte : Prop :=
  (∀ (w : Cmd16) (i : Instr) (b : Byte), decode w = .legal i → i.operand = some b → b.toNat = w.toNat % 256) ∧
  (∀ (w : Cmd16) (i : Instr), decode w = .legal i → (i.operand = none ↔ i.mnemonic.form = .formN)) ∧
  ∀ (s : State) (b : Byte), ∃ t u : State, ∃ r q : Response,
    exec (.crcSetpoly b) s = .next t ∧ t.responses = s.responses ++ [r] ∧ r.data.toNat = b.toNat ∧
    exec (.crcSetinit b) s = .next u ∧ u.responses = s.responses ++ [q] ∧ q.data.toNat = b.toNat

/-- Words written out from 30_encoding.md R42 and the examples of R48 decode to their commands. -/
def Obligations.WrittenOutWordsDecode : Prop :=
  decode 0b0000000100000000 = .legal .crcInit ∧ decode 0x02BE = .legal (.crcByte 0xBE) ∧
  decode 0x1107 = .legal (.frmPush 7) ∧ decode 0x1300 = .legal .frmDual ∧
  decode 0b0001010100000000 = .legal .sext24 ∧ decode 0x0407 = .legal (.crcSetpoly 0x07)

/-! ### The command port -/

/-- A step runs the command at the head of the port: it is `exec` of the decoded command at the state whose port no
longer holds the word (30_encoding.md R43; that the port is the list `pending` is the model's choice,
notes/assumptions/1.md). -/
def Obligations.StepRunsTheDecodedCommand : Prop :=
  ∀ (s : State) (w : Cmd16) (i : Instr) (rest : List Input),
    s.pending = .command w :: rest → decode w = .legal i → step s = exec i { s with pending := rest }

/-- THE MODEL'S CHOICES at the ports (notes/assumptions/2.md, 6.md, 7.md): with nothing issued a step changes nothing;
a reset empties the record of responses and leaves what is issued after it in place. -/
def Obligations.IdleAndResetStepsAtThePorts : Prop :=
  (∀ s : State, s.pending = [] → step s = .next s) ∧
  ∀ (s : State) (rest : List Input), s.pending = .reset :: rest →
    ∃ t : State, step s = .next t ∧ t.pending = rest ∧ t.responses = [] ∧ t.resets = s.resets + 1

/-- 60_exceptions.md R110 and 30_encoding.md R46: no step stops, every command is answered exactly once, and a command
answered with an error writes nothing, but for the `R24V <- 0` of `frm.single`. -/
def Obligations.ErrorsAreResponsesAndNeverStop : Prop :=
  (∀ s : State, ∃ t : State, step s = .next t) ∧
  ∀ (s : State) (w : Cmd16) (rest : List Input), s.pending = .command w :: rest →
    ∃ (t : State) (r : Response), step s = .next t ∧ t.pending = rest ∧ t.responses = s.responses ++ [r] ∧
      (r.code ≠ 0 → t.block = s.block ∨
        (decode w = .legal .frmSingle ∧ t.block = { s.block with r24v := false }))

/-- The commands of a run are answered in issue order, one response each, and what a command does and answers is one
function of the block and the word: no earlier response, no pending input and no draw count enters (10_state.md R20,
R22, 20_memory.md R38, 70_reset_and_hazards.md R139). -/
def Obligations.RunsAnswerCommandsInIssueOrder : Prop :=
  ∃ f : Block → Cmd16 → Block × Response,
    ∀ (ws : List Cmd16) (rest : List Input) (s : State), s.pending = ws.map .command ++ rest →
      ∀ k : Nat, k ≤ ws.length → ∃ t : State, Runs k s t ∧
        t.block = (ws.take k).foldl (fun b w => (f b w).1) s.block ∧
        t.pending = (ws.drop k).map .command ++ rest ∧ t.resets = s.resets ∧
        t.responses = s.responses ++
          (List.range k).map fun j => (f ((ws.take j).foldl (fun b w => (f b w).1) s.block) (ws.getD j 0)).2

/-! ### Reset -/

/-- The fixed reset values, and nothing issued or answered yet (10_state.md R12 to R20, 70_reset_and_hazards.md R131). -/
def Obligations.ResetStateHasTheFixedValues : Prop :=
  State.reset.block.crc = 0xFF ∧ State.reset.block.poly = 0x31 ∧ State.reset.block.init = 0xFF ∧
  State.reset.block.flen = 0 ∧ State.reset.block.r24v = false ∧ State.reset.pending = [] ∧ State.reset.responses = []

/-- 70_reset_and_hazards.md R130: a reset sets the five fixed registers whatever the state was, and no run of commands
can tell two reset states apart, whatever `FB` and `R24` hold in them. -/
def Obligations.ResetSetsFiveRegistersAndHidesTheRest : Prop :=
  (∀ (s : State) (rest : List Input), s.pending = .reset :: rest →
    ∃ t : State, step s = .next t ∧ t.block.crc = 0xFF ∧ t.block.poly = 0x31 ∧
      t.block.init = 0xFF ∧ t.block.flen = 0 ∧ t.block.r24v = false) ∧
  ∀ s t : State, s.block.IsReset → t.block.IsReset → s.pending = t.pending → s.responses = t.responses →
    ∀ n : Nat, ∃ s' t' : State, Runs n s s' ∧ Runs n t t' ∧ s'.responses = t'.responses

/-- No input, commands and resets alike, lets the host see an entry of `FB` at or above `FLEN`, or `R24` while
`R24V = 0` (10_state.md R16, R18): two machines that agree on the rest answer alike for ever. -/
def Obligations.UnreadBitsNeverReachTheHost : Prop :=
  ∀ s t : State, s.block.SameToHost t.block → s.pending = t.pending → s.responses = t.responses →
    ∀ n : Nat, ∃ s' t' : State, Runs n s s' ∧ Runs n t t' ∧
      s'.responses = t'.responses ∧ s'.pending = t'.pending ∧ s'.block.SameToHost t'.block

/-! ### The CRC functions -/

/-- 40_crc.md R60: one bit step as numbers, and the four examples of the rule. -/
def Obligations.BitStepShiftsAndXorsOnTheTopBit : Prop :=
  (∀ r p : Byte, 128 ≤ r.toNat → crcShift1 r p = BitVec.ofNat 8 (2 * r.toNat % 256) ^^^ p) ∧
  (∀ r p : Byte, r.toNat < 128 → (crcShift1 r p).toNat = 2 * r.toNat) ∧
  crcShift1 0x80 0x31 = 0x31 ∧ crcShift1 0x7F 0x31 = 0xFE ∧ crcShift1 0xFF 0x31 = 0xCF ∧ ∀ p : Byte, crcShift1 0 p = 0

/-- 40_crc.md R61 and R62: a byte is XORed in once and then stepped eight times; the checksum takes bytes in index
order from the initial value, and the empty sequence has the initial value as its checksum; the default parameters. -/
def Obligations.ChecksumFoldsEightStepsPerByte : Prop :=
  (∀ r b p : Byte, crcByteStep r b p = (fun t => crcShift1 t p)^[8] (r ^^^ b)) ∧
  (∀ p i : Byte, crc8 [] p i = i) ∧
  (∀ d : List Byte, frameChecksum d = crc8 d 0x31 0xFF) ∧
  ∀ (d : List Byte) (b p i : Byte), crc8 (d ++ [b]) p i = crcByteStep (crc8 d p i) b p

/-- The algebraic laws of 40_crc.md R64, items 1 to 5, which the spec marks as derived: table lookup, linearity, zero
residue, concatenation, the zero polynomial. -/
def Obligations.ChecksumAlgebraicLaws : Prop :=
  (∀ r b p : Byte, crcByteStep r b p = crcByteStep (r ^^^ b) 0 p) ∧
  (∀ r₁ r₂ p : Byte, crcShift1 (r₁ ^^^ r₂) p = crcShift1 r₁ p ^^^ crcShift1 r₂ p) ∧
  (∀ r₁ r₂ b₁ b₂ p : Byte, crcByteStep (r₁ ^^^ r₂) (b₁ ^^^ b₂) p = crcByteStep r₁ b₁ p ^^^ crcByteStep r₂ b₂ p) ∧
  (∀ r p : Byte, crcByteStep r r p = 0) ∧
  (∀ (d : List Byte) (p i : Byte), crc8 (d ++ [crc8 d p i]) p i = 0) ∧
  (∀ (d e : List Byte) (p i : Byte), crc8 (d ++ e) p i = crc8 e p (crc8 d p i)) ∧
  ∀ (d : List Byte) (i : Byte), d ≠ [] → crc8 d 0 i = 0

/-! ### The commands of the CRC engine -/

/-- 40_crc.md R65. -/
def Obligations.CrcInitLoadsTheInitialValue : Prop :=
  FormNWords 0x01 .crcInit ∧
  ∀ s : State, exec .crcInit s = .next { s with block := { s.block with crc := s.block.init },
                                                responses := s.responses ++ [⟨0, s.block.init.setWidth 32⟩] }

/-- 40_crc.md R66: the new register is the checksum step of the old register, the operand and the polynomial as it
stands; the rule's examples and corner cases. -/
def Obligations.CrcByteTakesOneByteIn : Prop :=
  FormIWords 0x02 .crcByte ∧
  (∀ (s : State) (b : Byte), ∃ v : Byte, v = (fun t => crcShift1 t s.block.poly)^[8] (s.block.crc ^^^ b) ∧
    exec (.crcByte b) s = .next { s with block := { s.block with crc := v },
                                         responses := s.responses ++ [⟨0, v.setWidth 32⟩] }) ∧
  (∀ s : State, exec (.crcByte s.block.crc) s =
    .next { s with block := { s.block with crc := 0 }, responses := s.responses ++ [⟨0, 0⟩] }) ∧
  (∀ (s : State) (b : Byte), s.block.poly = 0 → exec (.crcByte b) s =
    .next { s with block := { s.block with crc := 0 }, responses := s.responses ++ [⟨0, 0⟩] }) ∧
  ∀ s : State, s.block.poly = 0x31 →
    (s.block.crc = 0xFF → exec (.crcByte 0xBE) s =
      .next { s with block := { s.block with crc := 0x0C }, responses := s.responses ++ [⟨0, 0x0000000C⟩] }) ∧
    (s.block.crc = 0x0C → exec (.crcByte 0xEF) s =
      .next { s with block := { s.block with crc := 0x92 }, responses := s.responses ++ [⟨0, 0x00000092⟩] })

/-- 40_crc.md R67. -/
def Obligations.CrcReadReturnsTheRegister : Prop :=
  FormNWords 0x03 .crcRead ∧
  ∀ s : State, exec .crcRead s = .next { s with responses := s.responses ++ [⟨0, s.block.crc.setWidth 32⟩] }

/-- 40_crc.md R68. -/
def Obligations.CrcSetpolyWritesThePolynomial : Prop :=
  FormIWords 0x04 .crcSetpoly ∧
  ∀ (s : State) (p : Byte), exec (.crcSetpoly p) s =
    .next { s with block := { s.block with poly := p }, responses := s.responses ++ [⟨0, p.setWidth 32⟩] }

/-- 40_crc.md R69. -/
def Obligations.CrcSetinitWritesTheInitialValue : Prop :=
  FormIWords 0x05 .crcSetinit ∧
  ∀ (s : State) (v : Byte), exec (.crcSetinit v) s =
    .next { s with block := { s.block with init := v }, responses := s.responses ++ [⟨0, v.setWidth 32⟩] }

/-- 40_crc.md R70: `INIT` in bits 15:8, `POLY` in bits 7:0, the rest 0. -/
def Obligations.CrcGetcfgReturnsBothParameters : Prop :=
  FormNWords 0x06 .crcGetcfg ∧
  ∀ s : State, ∃ d : Word32, exec .crcGetcfg s = .next { s with responses := s.responses ++ [⟨0, d⟩] } ∧
    d.extractLsb' 8 8 = s.block.init ∧ d.extractLsb' 0 8 = s.block.poly ∧ d.extractLsb' 16 16 = 0

/-- A configuration write is seen by the very next command (70_reset_and_hazards.md R137, which the spec marks as
derived). -/
def Obligations.ConfigurationTakesEffectAtOnce : Prop :=
  (∀ (s t : State) (p b : Byte), exec (.crcSetpoly p) s = .next t →
    ∃ u : State, exec (.crcByte b) t = .next u ∧ u.block.crc = crcByteStep s.block.crc b p) ∧
  ∀ (s t : State) (v : Byte), exec (.crcSetinit v) s = .next t →
    ∃ u : State, exec .crcInit t = .next u ∧ u.block.crc = v

/-- The commands realise the checksum (40_crc.md R71, which the spec marks as derived): from any state, with frame
commands anywhere between, the CRC-engine commands of `crc.config p, i` and `crc.seq` leave `crc8` of the bytes in
`CRC`, and so do those of `crc.seq` alone for the parameters as they stand; with nothing between, the last response
carries it. -/
def Obligations.CrcCommandsComputeTheChecksum : Prop :=
  (∀ (bytes : List Byte) (p i : Byte) (cs : List Instr) (s : State),
    cs.filter Instr.isCrcEngine = expand (.crcConfig p i) ++ expand (.crcSeq bytes) → s.pending = commandInputs cs →
      ∃ t : State, Runs cs.length s t ∧ t.block.crc = crc8 bytes p i) ∧
  (∀ (bytes : List Byte) (cs : List Instr) (s : State),
    FreshChecksum cs bytes → s.pending = commandInputs cs →
      ∃ t : State, Runs cs.length s t ∧ t.block.crc = crc8 bytes s.block.poly s.block.init) ∧
  ∀ (bytes : List Byte) (s : State), s.pending = commandInputs (expand (.crcSeq bytes)) →
    ∃ t : State, Runs (bytes.length + 1) s t ∧
      t.responses.getLast? = some ⟨0, (crc8 bytes s.block.poly s.block.init).setWidth 32⟩

/-! ### The frame functions -/

/-- 41_frame.md R80 and R81: the assembled readings as numbers, the byte at the lower index the more significant. -/
def Obligations.ReadingsAreBigEndian : Prop :=
  (∀ h l : Byte, (be16 h l).toNat = h.toNat * 256 + l.toNat) ∧
  ∀ b0 b1 b2 : Byte, (be24 b0 b1 b2).toNat = b0.toNat * 65536 + b1.toNat * 256 + b2.toNat

/-- 41_frame.md R82: the correction subtracts 2^24 from 2^23 on, its pattern is the value with the upper byte filled
from bit 23, and it is a bijection onto -2^23 .. 2^23-1; the rule's corner values. -/
def Obligations.SignedCorrectionIsTwosComplement : Prop :=
  (∀ u : Reading24, 2 ^ 23 ≤ u.toNat → sext24 u = (u.toNat : Int) - 2 ^ 24) ∧
  (∀ u : Reading24, u.toNat < 2 ^ 23 → sext24 u = (u.toNat : Int)) ∧
  (∀ u : Reading24, (sext32 u).toInt = sext24 u) ∧
  (∀ u : Reading24, sext32 u = if u.getLsbD 23 then u.setWidth 32 ||| 0xFF000000 else u.setWidth 32) ∧
  (∀ u v : Reading24, sext24 u = sext24 v → u = v) ∧
  (∀ z : Int, -(2 ^ 23) ≤ z ∧ z < 2 ^ 23 ↔ ∃ u : Reading24, sext24 u = z) ∧
  sext24 0x000000 = 0 ∧ sext24 0x7FFFFF = 8388607 ∧ sext24 0x800000 = -8388608 ∧ sext24 0xFFFFFF = -1 ∧
  sext32 0x800000 = 0xFF800000 ∧ sext32 0xFFFFFF = 0xFFFFFFFF

/-- 41_frame.md R83 and R84: the length is checked first, then checksum A, then checksum B, with the source's default
parameters; a single frame has no other check than its length. -/
def Obligations.ParsersCheckLengthThenAThenB : Prop :=
  (∀ f : List Byte, f.length ≠ 6 → parseDual f = .invalidFrameLength f.length) ∧
  (∀ f0 f1 f2 f3 f4 f5 : Byte,
    (crc8 [f0, f1] 0x31 0xFF ≠ f2 →
      parseDual [f0, f1, f2, f3, f4, f5] = .checksumMismatch 0 f2 (crc8 [f0, f1] 0x31 0xFF)) ∧
    (crc8 [f0, f1] 0x31 0xFF = f2 → crc8 [f3, f4] 0x31 0xFF ≠ f5 →
      parseDual [f0, f1, f2, f3, f4, f5] = .checksumMismatch 1 f5 (crc8 [f3, f4] 0x31 0xFF)) ∧
    (crc8 [f0, f1] 0x31 0xFF = f2 → crc8 [f3, f4] 0x31 0xFF = f5 →
      parseDual [f0, f1, f2, f3, f4, f5] = .ok (be16 f0 f1) (be16 f3 f4))) ∧
  (∀ f : List Byte, f.length ≠ 3 → parseSingle f = .invalidFrameLength f.length) ∧
  ∀ f0 f1 f2 : Byte, parseSingle [f0, f1, f2] = .ok (be24 f0 f1 f2)

/-- Encoding two readings with their checksums and parsing the frame gives them back, and so for a 24-bit reading
(41_frame.md R96, which the spec marks as derived). -/
def Obligations.EncodedReadingsParseBack : Prop :=
  (∀ a b : Reading16, parseDual (dualFrameOf a b) = .ok a b) ∧ ∀ v : Reading24, parseSingle (singleFrameOf v) = .ok v

/-- Small errors are caught (41_frame.md R95 and 40_crc.md R64 item 6, which the spec marks as derived): in a frame
that parses, an error pattern of weight 1 to 3, of odd weight, or a burst of 8 bits or fewer, confined to bytes 0..2,
gives a mismatch of reading A, and confined to bytes 3..5 a mismatch of reading B. The bound is tight: a pattern of
weight 4 passes. -/
def Obligations.DualFrameCatchesSmallErrors : Prop :=
  (∀ (f0 f1 f2 f3 f4 f5 : Byte) (a b : Reading16) (e : BitVec 24),
    parseDual [f0, f1, f2, f3, f4, f5] = .ok a b → e ≠ 0 → (weight e ≤ 3 ∨ weight e % 2 = 1 ∨ IsBurst8 e) →
      (∃ received computed : Byte,
        parseDual (flipBytes e f0 f1 f2 ++ [f3, f4, f5]) = .checksumMismatch 0 received computed) ∧
      ∃ received computed : Byte,
        parseDual ([f0, f1, f2] ++ flipBytes e f3 f4 f5) = .checksumMismatch 1 received computed) ∧
  ∃ e : BitVec 24, weight e = 4 ∧ ∀ (f0 f1 f2 f3 f4 f5 : Byte) (a b : Reading16),
    parseDual [f0, f1, f2, f3, f4, f5] = .ok a b →
      ∃ a' : Reading16, parseDual (flipBytes e f0 f1 f2 ++ [f3, f4, f5]) = .ok a' b

/-! ### The commands of the frame parser -/

/-- 41_frame.md R86. -/
def Obligations.FrmClearStartsANewFrame : Prop :=
  FormNWords 0x10 .frmClear ∧
  ∀ s : State, exec .frmClear s =
    .next { s with block := { s.block with flen := 0 }, responses := s.responses ++ [⟨0, 0⟩] }

/-- 41_frame.md R87: below six the byte is stored at the count, from six on it is dropped; the count saturates at 7 and
is returned; every other entry stays. -/
def Obligations.FrmPushStoresAndCounts : Prop :=
  FormIWords 0x11 .frmPush ∧
  ∀ (s : State) (b : Byte), ∃ fb : Vector Byte 6,
    exec (.frmPush b) s =
      .next { s with block := { s.block with fb := fb, flen := BitVec.ofNat 3 (min (s.block.flen.toNat + 1) 7) },
                     responses := s.responses ++ [⟨0, BitVec.ofNat 32 (min (s.block.flen.toNat + 1) 7)⟩] } ∧
    (∀ k : Fin 6, fb[k] = if k.val = s.block.flen.toNat then b else s.block.fb[k])

/-- 41_frame.md R88. -/
def Obligations.FrmLenReturnsTheCount : Prop :=
  FormNWords 0x12 .frmLen ∧
  ∀ s : State, exec .frmLen s =
    .next { s with responses := s.responses ++ [⟨0, BitVec.ofNat 32 s.block.flen.toNat⟩] }

/-- 41_frame.md R89 and R93: the four answers, each with its data field by field; no state is written on any path. -/
def Obligations.FrmDualChecksAndReturnsBothReadings : Prop :=
  FormNWords 0x13 .frmDual ∧
  ∀ s : State, ∃ r : Response, exec .frmDual s = .next { s with responses := s.responses ++ [r] } ∧
    (s.block.flen.toNat ≠ 6 → r = ⟨1, BitVec.ofNat 32 s.block.flen.toNat⟩) ∧
    (s.block.flen.toNat = 6 → crc8 [s.block.fb[0], s.block.fb[1]] 0x31 0xFF ≠ s.block.fb[2] →
      r.code = 2 ∧ r.data.extractLsb' 0 8 = s.block.fb[2] ∧
      r.data.extractLsb' 8 8 = crc8 [s.block.fb[0], s.block.fb[1]] 0x31 0xFF ∧ r.data.extractLsb' 16 16 = 0) ∧
    (s.block.flen.toNat = 6 → crc8 [s.block.fb[0], s.block.fb[1]] 0x31 0xFF = s.block.fb[2] →
      crc8 [s.block.fb[3], s.block.fb[4]] 0x31 0xFF ≠ s.block.fb[5] →
      r.code = 2 ∧ r.data.extractLsb' 0 8 = s.block.fb[5] ∧
      r.data.extractLsb' 8 8 = crc8 [s.block.fb[3], s.block.fb[4]] 0x31 0xFF ∧ r.data.extractLsb' 16 16 = 1) ∧
    (s.block.flen.toNat = 6 → crc8 [s.block.fb[0], s.block.fb[1]] 0x31 0xFF = s.block.fb[2] →
      crc8 [s.block.fb[3], s.block.fb[4]] 0x31 0xFF = s.block.fb[5] →
      r.code = 0 ∧ (r.data.extractLsb' 16 16).toNat = s.block.fb[0].toNat * 256 + s.block.fb[1].toNat ∧
      (r.data.extractLsb' 0 16).toNat = s.block.fb[3].toNat * 256 + s.block.fb[4].toNat)

/-- 41_frame.md R90: with three bytes the big-endian reading is latched, flagged and returned; with any other count the
flag is cleared and the count is reported. -/
def Obligations.FrmSingleLatchesOrClears : Prop :=
  FormNWords 0x14 .frmSingle ∧
  (∀ s : State, s.block.flen.toNat = 3 → ∃ v : Reading24,
    v.toNat = s.block.fb[0].toNat * 65536 + s.block.fb[1].toNat * 256 + s.block.fb[2].toNat ∧
    exec .frmSingle s = .next { s with block := { s.block with r24 := v, r24v := true },
                                       responses := s.responses ++ [⟨0, v.setWidth 32⟩] }) ∧
  ∀ s : State, s.block.flen.toNat ≠ 3 →
    exec .frmSingle s = .next { s with block := { s.block with r24v := false },
                                       responses := s.responses ++ [⟨1, BitVec.ofNat 32 s.block.flen.toNat⟩] }

/-- 41_frame.md R91: with a latched reading its sign-extended pattern is returned; with none, NO_VALUE. -/
def Obligations.Sext24ConvertsTheLatchedReading : Prop :=
  FormNWords 0x15 .sext24 ∧
  (∀ s : State, s.block.r24v = true → ∃ d : Word32,
    exec .sext24 s = .next { s with responses := s.responses ++ [⟨0, d⟩] } ∧ d.toInt = sext24 s.block.r24) ∧
  ∀ s : State, s.block.r24v = false → exec .sext24 s = .next { s with responses := s.responses ++ [⟨4, 0⟩] }

/-- 40_crc.md R63: no value of `CRC`, `POLY` or `INIT` changes an answer of `frm.dual`, because the parameters of its
checks are the constants 0x31 and 0xFF. -/
def Obligations.FrameChecksIgnoreTheCrcConfiguration : Prop :=
  (∀ d : List Byte, frameChecksum d = crc8 d 0x31 0xFF) ∧
  ∀ (s : State) (c p i : Byte), ∃ (t u : State) (r : Response),
    exec .frmDual s = .next t ∧ t.responses = s.responses ++ [r] ∧
    exec .frmDual { s with block := { s.block with crc := c, poly := p, init := i } } = .next u ∧
    u.responses = s.responses ++ [r]

/-- The commands realise the parsers (41_frame.md R92, which the spec marks as derived): from any state, with CRC-engine
commands anywhere between, after `frm.load f` for a sequence `f` of any length, `frm.dual` and `frm.single` answer the
encoded results of the pure functions, and `sext24` after a successful `frm.single` converts its reading. -/
def Obligations.FrameCommandsRealiseTheParsers : Prop :=
  ∀ (f : List Byte) (cs : List Instr) (s : State), FreshFrame cs f → s.pending = commandInputs cs →
    ∃ t u : State, Runs cs.length s t ∧
      exec .frmDual t = .next { t with responses := t.responses ++ [(parseDual f).enc] } ∧
      exec .frmSingle t = .next u ∧ u.responses = t.responses ++ [(parseSingle f).enc] ∧
      ∀ v : Reading24, parseSingle f = .ok v →
        exec .sext24 u = .next { u with responses := u.responses ++ [⟨0, v.signExtend 32⟩] }

/-- `sext24` answers for the most recent `frm.single` only (10_state.md R19, 60_exceptions.md R115): commands other than
`frm.single`, however many, neither make a reading nor lose or change one. -/
def Obligations.Sext24AnswersForTheMostRecentSingle : Prop :=
  ∀ (cs : List Instr) (s : State), .frmSingle ∉ cs → s.pending = commandInputs cs →
    ∃ t : State, Runs cs.length s t ∧
      (s.block.r24v = false → exec .sext24 t = .next { t with responses := t.responses ++ [⟨4, 0⟩] }) ∧
      (s.block.r24v = true →
        exec .sext24 t = .next { t with responses := t.responses ++ [⟨0, s.block.r24.signExtend 32⟩] })

/-! ### Whole-machine rules -/

/-- Each register changes only by the commands its rule names as its writers (10_state.md R12 to R19), and a command
changes nothing else: not what is issued after it, not the responses before it, not the draw count. -/
def Obligations.RegistersChangeOnlyByTheirWriters : Prop :=
  ∀ (s : State) (w : Cmd16) (rest : List Input), s.pending = .command w :: rest →
    ∃ (t : State) (r : Response), step s = .next t ∧ t.pending = rest ∧ t.resets = s.resets ∧
      t.responses = s.responses ++ [r] ∧
      (t.block.crc ≠ s.block.crc → decode w = .legal .crcInit ∨ ∃ b, decode w = .legal (.crcByte b)) ∧
      (t.block.poly ≠ s.block.poly → ∃ p, decode w = .legal (.crcSetpoly p)) ∧
      (t.block.init ≠ s.block.init → ∃ v, decode w = .legal (.crcSetinit v)) ∧
      (t.block.fb ≠ s.block.fb → ∃ b, decode w = .legal (.frmPush b)) ∧
      (t.block.flen ≠ s.block.flen → decode w = .legal .frmClear ∨ ∃ b, decode w = .legal (.frmPush b)) ∧
      (t.block.r24 ≠ s.block.r24 → decode w = .legal .frmSingle ∧ r.code = 0) ∧
      (t.block.r24v ≠ s.block.r24v → decode w = .legal .frmSingle)

/-- A byte once pushed stays as it was until the frame is cleared and pushed over (10_state.md R16): no command but
`frm.clear` lowers the count, and no command changes an entry below it. -/
def Obligations.PushedBytesAreNeverChanged : Prop :=
  ∀ (i : Instr) (s : State), ∃ t : State, exec i s = .next t ∧
    (∀ k : Fin 6, k.val < s.block.flen.toNat → t.block.fb[k] = s.block.fb[k]) ∧
    (i ≠ .frmClear → s.block.flen.toNat ≤ t.block.flen.toNat)

/-- Which commands write no state, which are idempotent and which two are not (20_memory.md R35). -/
def Obligations.IdempotentCommandsAnswerTwiceAlike : Prop :=
  (∀ (i : Instr) (s : State), i ∈ [Instr.crcRead, .crcGetcfg, .frmLen, .frmDual, .sext24] →
    ∃ t : State, exec i s = .next t ∧ t.block = s.block) ∧
  (∀ (i : Instr) (s : State), (∀ b, i ≠ .crcByte b) → (∀ b, i ≠ .frmPush b) →
    ∃ (t u : State) (r : Response), exec i s = .next t ∧ t.responses = s.responses ++ [r] ∧
      exec i t = .next u ∧ u.responses = t.responses ++ [r] ∧ u.block = t.block) ∧
  ∀ b : Byte,
    (∃ s t u : State, exec (.crcByte b) s = .next t ∧ exec (.crcByte b) t = .next u ∧ u.block ≠ t.block) ∧
    ∃ s t u : State, exec (.frmPush b) s = .next t ∧ exec (.frmPush b) t = .next u ∧ u.block ≠ t.block

/-- The two groups of commands do not meet (10_state.md R12 to R19): a run of commands of both leaves the CRC registers
as its CRC-engine commands alone would, and the frame state as its frame commands alone would. -/
def Obligations.CommandGroupsDoNotInterfere : Prop :=
  ∀ (cs : List Instr) (s : State), s.pending = commandInputs cs →
    ∃ t c f : State, Runs cs.length s t ∧
      Runs (cs.filter Instr.isCrcEngine).length
        { s with pending := commandInputs (cs.filter Instr.isCrcEngine) } c ∧
      Runs (cs.filter fun i => !i.isCrcEngine).length
        { s with pending := commandInputs (cs.filter fun i => !i.isCrcEngine) } f ∧
      t.block.crc = c.block.crc ∧ t.block.poly = c.block.poly ∧ t.block.init = c.block.init ∧
      t.block.fb = f.block.fb ∧ t.block.flen = f.block.flen ∧ t.block.r24 = f.block.r24 ∧ t.block.r24v = f.block.r24v

/-- The invariant holds right after reset. -/
def Obligations.ResetMeetsTheInvariant : Prop := State.reset.Inv

/-- Every step keeps the invariant, from every state that meets it: each response since the last reset has one of the
five codes and the data its code allows, and a latched reading was returned to the host as a successful reading
(30_encoding.md R47, 41_frame.md R85, R90, R93, 60_exceptions.md R111). -/
def Obligations.EveryStepKeepsTheInvariant : Prop := ∀ s : State, s.Inv → ∃ t : State, step s = .next t ∧ t.Inv

/-! ### The assembler -/

/-- 30_encoding.md R48: a command's text assembles to its word, an operand may be decimal, a comment changes nothing, and
the three refusals of the rule, each said of a line of text and of the line taken apart; its three examples. -/
def Obligations.AssemblerGivesTheWordOrRefuses : Prop :=
  (∀ i : Instr, assembleLine (renderLine i) = .ok [encode i]) ∧
  (∀ (m : Mnemonic) (n : Nat), m.form = .formI → n < 256 →
    assembleLine (mnemonicText m ++ ' ' :: Nat.toDigits 10 n) = .ok [commandWord m.op (BitVec.ofNat 8 n)]) ∧
  (∀ (line comment : List Char), ';' ∉ line → assembleLine (line ++ ';' :: comment) = assembleLine line) ∧
  (∀ (m : Mnemonic) (n : Nat), m.form = .formI → 256 ≤ n →
    assembleCommand ⟨m, some n⟩ = .error .operandOutOfRange ∧
    assembleLine (mnemonicText m ++ ' ' :: Nat.toDigits 10 n) = .error .operandOutOfRange) ∧
  (∀ (m : Mnemonic) (n : Nat), m.form = .formN →
    assembleCommand ⟨m, some n⟩ = .error .operandOnFormN ∧
    assembleLine (mnemonicText m ++ ' ' :: Nat.toDigits 10 n) = .error .operandOnFormN) ∧
  (∀ m : Mnemonic, m.form = .formI →
    assembleCommand ⟨m, none⟩ = .error .operandMissing ∧ assembleLine (mnemonicText m) = .error .operandMissing) ∧
  assembleLine "crc.byte 0xBE".toList = .ok [0x02BE] ∧ assembleLine "frm.push 7".toList = .ok [0x1107] ∧
  assembleLine "frm.dual".toList = .ok [0x1300]

/-- THE MODEL'S CHOICES of a line's layout, which 30_encoding.md R48 leaves open (notes/assumptions/11.md): hex digits in
lower case are read as those in upper case are, blanks before a line change nothing, and a line of blanks and a comment
stands for no word. -/
def Obligations.AssemblerLayoutChosenByTheModel : Prop :=
  (∀ (m : Mnemonic) (n : Nat), m.form = .formI → n < 256 →
    assembleLine (mnemonicText m ++ ' ' :: '0' :: 'x' :: Nat.toDigits 16 n) =
      .ok [commandWord m.op (BitVec.ofNat 8 n)]) ∧
  (∀ blanks line : List Char, (∀ c ∈ blanks, c = ' ' ∨ c = '\t') → assembleLine (blanks ++ line) = assembleLine line) ∧
  ∀ blanks comment : List Char, (∀ c ∈ blanks, c = ' ' ∨ c = '\t') → assembleLine (blanks ++ ';' :: comment) = .ok []

/-- 30_encoding.md R49: each pseudo-instruction runs as its expansion, answered once for each command of it, and the
last response of `crc.seq` carries the checksum of the whole sequence. -/
def Obligations.PseudoInstructionsExpandInOrder : Prop :=
  (∀ bytes : List Byte, expand (.crcSeq bytes) = .crcInit :: bytes.map Instr.crcByte) ∧
  (∀ p i : Byte, expand (.crcConfig p i) = [.crcSetpoly p, .crcSetinit i]) ∧
  (∀ bytes : List Byte, expand (.frmLoad bytes) = .frmClear :: bytes.map Instr.frmPush) ∧
  (∀ (q : Pseudo) (s : State), s.pending = commandInputs (expand q) →
    ∃ t : State, Runs (expand q).length s t ∧ t.responses.length = s.responses.length + (expand q).length) ∧
  ∀ (bytes : List Byte) (s : State), s.pending = commandInputs (expand (.crcSeq bytes)) →
    ∃ t : State, Runs (expand (.crcSeq bytes)).length s t ∧
      t.responses.getLast? = some ⟨0, (crc8 bytes s.block.poly s.block.init).setWidth 32⟩
end

