-- ==== Sys2Proof/Laws/Crc.lean ====
section
/-! SUPPORT. The equations of the CRC functions. -/

namespace Sys2Proof.Machine

@[simp] theorem crcSteps_zero (t p : Byte) : crcSteps 0 t p = t := rfl

theorem crcSteps_succ (k : Nat) (t p : Byte) : crcSteps (k + 1) t p = crcSteps k (crcShift1 t p) p := rfl

@[simp] theorem crc8_nil (p i : Byte) : crc8 [] p i = i := rfl

theorem crc8_cons (b : Byte) (d : List Byte) (p i : Byte) : crc8 (b :: d) p i = crc8 d p (crcByteStep i b p) := rfl

/-- The register is XORed with the byte before the steps, so the steps see only the two together (40_crc.md R61). -/
theorem crcByteStep_eq (r b p : Byte) : crcByteStep r b p = crcByteStep (r ^^^ b) 0 p := by
  simp [crcByteStep]

end Sys2Proof.Machine
end

