-- ==== Sys2Proof/Laws/Decode.lean ====
section
/-! SUPPORT. The fields of a word, the form-N check, and well-formedness. -/

namespace Sys2Proof

/-- `OP` of `{OP, IMM8}`. -/
@[simp] theorem opField_commandWord (op imm : Byte) : opField (commandWord op imm) = op := by
  ext i hi
  simp only [opField, commandWord, BitVec.getElem_extractLsb', BitVec.getLsbD_append]
  rw [if_neg (by omega), Nat.add_sub_cancel_left, BitVec.getLsbD_eq_getElem hi]

/-- `IMM8` of `{OP, IMM8}`. -/
@[simp] theorem immField_commandWord (op imm : Byte) : immField (commandWord op imm) = imm := by
  ext i hi
  simp only [immField, commandWord, BitVec.getElem_extractLsb', BitVec.getLsbD_append]
  rw [if_pos (by omega), Nat.zero_add, BitVec.getLsbD_eq_getElem hi]

/-- A word is its two fields. -/
@[simp] theorem commandWord_fields (w : Cmd16) : commandWord (opField w) (immField w) = w := by
  apply BitVec.eq_of_getLsbD_eq
  intro i hi
  simp only [opField, immField, commandWord, BitVec.getLsbD_append, BitVec.getLsbD_extractLsb']
  split
  · simp_all
  · rw [Nat.add_sub_cancel' (by omega)]
    simp [show i - 8 < 8 by omega]

/-- The decoder sees a word through its two fields only. -/
@[simp] theorem decode_commandWord (op imm : Byte) : decode (commandWord op imm) = decodeFields op imm := by
  rw [decode, opField_commandWord, immField_commandWord]

@[simp] theorem decodeFormN_zero (i : Instr) : decodeFormN 0#8 i = .legal i := rfl

theorem decodeFormN_eq_legal (imm : Byte) (i j : Instr) : decodeFormN imm i = .legal j ↔ imm = 0 ∧ i = j := by
  unfold decodeFormN
  split <;> simp_all

@[simp] theorem Decoded.isLegal_legal (i : Instr) : (Decoded.legal i).isLegal = true := rfl
@[simp] theorem Decoded.isLegal_illegal (e : IllegalWord) : (Decoded.illegal e).isLegal = false := rfl

/-- A byte operand lies in 0..255 and stands exactly in form I, so every command is well formed. -/
theorem Instr.wf_eq_true (i : Instr) : i.wf = true := by
  cases i <;> simp [Instr.wf, Instr.toLine, AsmLine.wf, AsmLine.problem, Instr.mnemonic, Mnemonic.form, Instr.operand] <;>
    exact BitVec.isLt _

end Sys2Proof
end

