-- ==== Sys2Proof/Laws/State.lean ====
section
/-! SUPPORT. One lemma for each field and each named update of the state, so that no later proof unfolds a record
update. -/

namespace Sys2Proof.Machine

section
variable (b : Block)

@[simp] theorem Block.setCrc_crc (v : Byte) : (b.setCrc v).crc = v := rfl
@[simp] theorem Block.setCrc_poly (v : Byte) : (b.setCrc v).poly = b.poly := rfl
@[simp] theorem Block.setCrc_init (v : Byte) : (b.setCrc v).init = b.init := rfl
@[simp] theorem Block.setCrc_fb (v : Byte) : (b.setCrc v).fb = b.fb := rfl
@[simp] theorem Block.setCrc_flen (v : Byte) : (b.setCrc v).flen = b.flen := rfl
@[simp] theorem Block.setCrc_r24 (v : Byte) : (b.setCrc v).r24 = b.r24 := rfl
@[simp] theorem Block.setCrc_r24v (v : Byte) : (b.setCrc v).r24v = b.r24v := rfl

@[simp] theorem Block.setPoly_crc (v : Byte) : (b.setPoly v).crc = b.crc := rfl
@[simp] theorem Block.setPoly_poly (v : Byte) : (b.setPoly v).poly = v := rfl
@[simp] theorem Block.setPoly_init (v : Byte) : (b.setPoly v).init = b.init := rfl
@[simp] theorem Block.setPoly_fb (v : Byte) : (b.setPoly v).fb = b.fb := rfl
@[simp] theorem Block.setPoly_flen (v : Byte) : (b.setPoly v).flen = b.flen := rfl
@[simp] theorem Block.setPoly_r24 (v : Byte) : (b.setPoly v).r24 = b.r24 := rfl
@[simp] theorem Block.setPoly_r24v (v : Byte) : (b.setPoly v).r24v = b.r24v := rfl

@[simp] theorem Block.setInit_crc (v : Byte) : (b.setInit v).crc = b.crc := rfl
@[simp] theorem Block.setInit_poly (v : Byte) : (b.setInit v).poly = b.poly := rfl
@[simp] theorem Block.setInit_init (v : Byte) : (b.setInit v).init = v := rfl
@[simp] theorem Block.setInit_fb (v : Byte) : (b.setInit v).fb = b.fb := rfl
@[simp] theorem Block.setInit_flen (v : Byte) : (b.setInit v).flen = b.flen := rfl
@[simp] theorem Block.setInit_r24 (v : Byte) : (b.setInit v).r24 = b.r24 := rfl
@[simp] theorem Block.setInit_r24v (v : Byte) : (b.setInit v).r24v = b.r24v := rfl

@[simp] theorem Block.clearFrame_crc : b.clearFrame.crc = b.crc := rfl
@[simp] theorem Block.clearFrame_poly : b.clearFrame.poly = b.poly := rfl
@[simp] theorem Block.clearFrame_init : b.clearFrame.init = b.init := rfl
@[simp] theorem Block.clearFrame_fb : b.clearFrame.fb = b.fb := rfl
@[simp] theorem Block.clearFrame_flen : b.clearFrame.flen = 0 := rfl
@[simp] theorem Block.clearFrame_r24 : b.clearFrame.r24 = b.r24 := rfl
@[simp] theorem Block.clearFrame_r24v : b.clearFrame.r24v = b.r24v := rfl

@[simp] theorem Block.pushByte_crc (v : Byte) : (b.pushByte v).crc = b.crc := rfl
@[simp] theorem Block.pushByte_poly (v : Byte) : (b.pushByte v).poly = b.poly := rfl
@[simp] theorem Block.pushByte_init (v : Byte) : (b.pushByte v).init = b.init := rfl
@[simp] theorem Block.pushByte_fb (v : Byte) : (b.pushByte v).fb = storeFrameByte b.fb b.flen v := rfl
@[simp] theorem Block.pushByte_flen (v : Byte) : (b.pushByte v).flen = countPush b.flen := rfl
@[simp] theorem Block.pushByte_r24 (v : Byte) : (b.pushByte v).r24 = b.r24 := rfl
@[simp] theorem Block.pushByte_r24v (v : Byte) : (b.pushByte v).r24v = b.r24v := rfl

@[simp] theorem Block.latchReading_crc (v : Reading24) : (b.latchReading v).crc = b.crc := rfl
@[simp] theorem Block.latchReading_poly (v : Reading24) : (b.latchReading v).poly = b.poly := rfl
@[simp] theorem Block.latchReading_init (v : Reading24) : (b.latchReading v).init = b.init := rfl
@[simp] theorem Block.latchReading_fb (v : Reading24) : (b.latchReading v).fb = b.fb := rfl
@[simp] theorem Block.latchReading_flen (v : Reading24) : (b.latchReading v).flen = b.flen := rfl
@[simp] theorem Block.latchReading_r24 (v : Reading24) : (b.latchReading v).r24 = v := rfl
@[simp] theorem Block.latchReading_r24v (v : Reading24) : (b.latchReading v).r24v = true := rfl

@[simp] theorem Block.dropReading_crc : b.dropReading.crc = b.crc := rfl
@[simp] theorem Block.dropReading_poly : b.dropReading.poly = b.poly := rfl
@[simp] theorem Block.dropReading_init : b.dropReading.init = b.init := rfl
@[simp] theorem Block.dropReading_fb : b.dropReading.fb = b.fb := rfl
@[simp] theorem Block.dropReading_flen : b.dropReading.flen = b.flen := rfl
@[simp] theorem Block.dropReading_r24 : b.dropReading.r24 = b.r24 := rfl
@[simp] theorem Block.dropReading_r24v : b.dropReading.r24v = false := rfl

end

section
variable (n : Nat)

@[simp] theorem resetBlock_crc : (resetBlock n).crc = 0xFF := rfl
@[simp] theorem resetBlock_poly : (resetBlock n).poly = 0x31 := rfl
@[simp] theorem resetBlock_init : (resetBlock n).init = 0xFF := rfl
@[simp] theorem resetBlock_flen : (resetBlock n).flen = 0 := rfl
@[simp] theorem resetBlock_r24 : (resetBlock n).r24 = Config.unspecifiedReading n := rfl
@[simp] theorem resetBlock_r24v : (resetBlock n).r24v = false := rfl

end

section
variable (s : State)

@[simp] theorem State.answer_block (b : Block) (r : Response) : (s.answer b r).block = b := rfl
@[simp] theorem State.answer_pending (b : Block) (r : Response) : (s.answer b r).pending = s.pending := rfl
@[simp] theorem State.answer_responses (b : Block) (r : Response) : (s.answer b r).responses = s.responses ++ [r] := rfl
@[simp] theorem State.answer_resets (b : Block) (r : Response) : (s.answer b r).resets = s.resets := rfl

@[simp] theorem State.takeReset_block : s.takeReset.block = resetBlock (s.resets + 1) := rfl
@[simp] theorem State.takeReset_pending : s.takeReset.pending = s.pending := rfl
@[simp] theorem State.takeReset_responses : s.takeReset.responses = [] := rfl
@[simp] theorem State.takeReset_resets : s.takeReset.resets = s.resets + 1 := rfl

@[simp] theorem State.issue_block (xs : List Input) : (s.issue xs).block = s.block := rfl
@[simp] theorem State.issue_pending (xs : List Input) : (s.issue xs).pending = s.pending ++ xs := rfl
@[simp] theorem State.issue_responses (xs : List Input) : (s.issue xs).responses = s.responses := rfl
@[simp] theorem State.issue_resets (xs : List Input) : (s.issue xs).resets = s.resets := rfl

@[simp] theorem State.issueFirst_block (x : Input) : (s.issueFirst x).block = s.block := rfl
@[simp] theorem State.issueFirst_pending (x : Input) : (s.issueFirst x).pending = x :: s.pending := rfl
@[simp] theorem State.issueFirst_responses (x : Input) : (s.issueFirst x).responses = s.responses := rfl
@[simp] theorem State.issueFirst_resets (x : Input) : (s.issueFirst x).resets = s.resets := rfl

end

section

@[simp] theorem State.reset_block : State.reset.block = resetBlock 0 := rfl
@[simp] theorem State.reset_pending : State.reset.pending = [] := rfl
@[simp] theorem State.reset_responses : State.reset.responses = [] := rfl
@[simp] theorem State.reset_resets : State.reset.resets = 0 := rfl

end

end Sys2Proof.Machine
end

