-- ==== Sys2Proof/Laws/Flags.lean ====
section
/-! SUPPORT. The flag `R24V` and the reading it guards. -/

namespace Sys2Proof.Machine

/-- There is a reading to convert exactly while the flag is set. -/
theorem Block.latched?_eq_some (b : Block) (v : Reading24) : b.latched? = some v ↔ b.r24v = true ∧ b.r24 = v := by
  unfold Block.latched?
  cases b.r24v <;> simp

theorem Block.latched?_eq_none (b : Block) : b.latched? = none ↔ b.r24v = false := by
  unfold Block.latched?
  cases b.r24v <;> simp

@[simp] theorem Block.latchReading_latched? (b : Block) (v : Reading24) : (b.latchReading v).latched? = some v := rfl

@[simp] theorem Block.dropReading_latched? (b : Block) : b.dropReading.latched? = none := rfl

end Sys2Proof.Machine
end

