-- ==== Sys2Proof/Laws/Operands.lean ====
section
/-! SUPPORT. The extensions and packings as numbers and as fields. -/

namespace Sys2Proof.Machine

/-- Zero extension keeps the number (00_scope.md R6). -/
theorem zext32_toNat {n : Nat} (h : n ≤ 32) (v : BitVec n) : (zext32 v).toNat = v.toNat := by
  have hv : v.toNat < 2 ^ 32 := Nat.lt_of_lt_of_le v.isLt (Nat.pow_le_pow_right (by decide) h)
  rw [zext32, BitVec.toNat_setWidth, Nat.mod_eq_of_lt hv]

/-- Sign extension keeps the integer (00_scope.md R6). -/
theorem sext32_toInt (v : Reading24) : (sext32 v).toInt = v.toInt := BitVec.toInt_signExtend_of_le (by decide)

theorem zext32_injective {n : Nat} (h : n ≤ 32) (v w : BitVec n) (e : zext32 v = zext32 w) : v = w := by
  apply BitVec.eq_of_toNat_eq
  rw [← zext32_toNat h v, ← zext32_toNat h w, e]

/-- A 16-bit reading is its two bytes side by side, the first one above (20_memory.md R30). -/
theorem be16_eq_append (h l : Byte) : be16 h l = (h ++ l : BitVec (8 + 8)) := by
  apply BitVec.eq_of_getLsbD_eq
  intro i hi
  simp only [be16, BitVec.getLsbD_or, BitVec.getLsbD_shiftLeft, BitVec.getLsbD_setWidth, BitVec.getLsbD_append]
  by_cases h8 : i < 8
  · simp [h8, hi]
  · simp [h8, hi, BitVec.getLsbD_of_ge l i (by omega), show i - 8 < 16 by omega]

/-- A 24-bit reading is its three bytes side by side, the first one above (20_memory.md R30). -/
theorem be24_eq_append (b0 b1 b2 : Byte) : be24 b0 b1 b2 = (b0 ++ b1 ++ b2 : BitVec (8 + 8 + 8)) := by
  apply BitVec.eq_of_getLsbD_eq
  intro i hi
  simp only [be24, BitVec.getLsbD_or, BitVec.getLsbD_shiftLeft, BitVec.getLsbD_setWidth, BitVec.getLsbD_append]
  by_cases h8 : i < 8
  · simp [h8, hi, show i < 16 by omega]
  · by_cases h16 : i < 16
    · simp [h8, h16, hi, BitVec.getLsbD_of_ge b2 i (by omega), show i - 8 < 8 by omega, show i - 8 < 24 by omega]
    · simp [h8, h16, hi, BitVec.getLsbD_of_ge b2 i (by omega), BitVec.getLsbD_of_ge b1 (i - 8) (by omega),
        show ¬ i - 8 < 8 by omega, show i - 16 < 24 by omega, show i - 8 - 8 = i - 16 by omega]

/-- The upper lane of a dual response (41_frame.md R93). -/
theorem packDual_upper (a b : Reading16) : (packDual a b).extractLsb' 16 16 = a := by
  ext i hi
  simp only [packDual, BitVec.getElem_extractLsb', BitVec.getLsbD_append]
  rw [if_neg (by omega), Nat.add_sub_cancel_left, BitVec.getLsbD_eq_getElem hi]

/-- The lower lane of a dual response (41_frame.md R93). -/
theorem packDual_lower (a b : Reading16) : (packDual a b).extractLsb' 0 16 = b := by
  ext i hi
  simp only [packDual, BitVec.getElem_extractLsb', BitVec.getLsbD_append]
  rw [if_pos (by omega), Nat.zero_add, BitVec.getLsbD_eq_getElem hi]

/-- The received byte of a mismatch (41_frame.md R93). -/
theorem packMismatch_received (k : BitVec 1) (c r : Byte) : (packMismatch k c r).extractLsb' 0 8 = r := by
  ext i hi
  simp only [packMismatch, zext32, BitVec.getElem_extractLsb', BitVec.getLsbD_setWidth, BitVec.getLsbD_append]
  rw [if_pos (by omega), Nat.zero_add, BitVec.getLsbD_eq_getElem hi]
  simp [show i < 32 by omega]

/-- The computed byte of a mismatch (41_frame.md R93). -/
theorem packMismatch_computed (k : BitVec 1) (c r : Byte) : (packMismatch k c r).extractLsb' 8 8 = c := by
  ext i hi
  simp only [packMismatch, zext32, BitVec.getElem_extractLsb', BitVec.getLsbD_setWidth, BitVec.getLsbD_append]
  rw [if_neg (by omega), if_pos (by omega), Nat.add_sub_cancel_left, BitVec.getLsbD_eq_getElem hi]
  simp [show 8 + i < 32 by omega]

/-- The index of a mismatch and the bits above it (41_frame.md R93). -/
theorem packMismatch_index (k : BitVec 1) (c r : Byte) : (packMismatch k c r).extractLsb' 16 16 = k.setWidth 16 := by
  ext i hi
  simp only [packMismatch, zext32, BitVec.getElem_extractLsb', BitVec.getLsbD_setWidth, BitVec.getLsbD_append,
    BitVec.getElem_setWidth]
  rw [if_neg (by omega), if_neg (by omega)]
  simp [show 16 + i < 32 by omega, show 16 + i - 8 - 8 = i by omega]

/-- A mismatch uses 17 bits of the data (41_frame.md R93). -/
theorem packMismatch_lt (k : BitVec 1) (c r : Byte) : (packMismatch k c r).toNat < 2 ^ 17 := by
  rw [packMismatch, zext32_toNat (by decide)]
  exact (k ++ c ++ r).isLt

end Sys2Proof.Machine
end

