-- ==== Sys2Proof/Laws/Ops.lean ====
section
/-! SUPPORT. What each shared operation can do, once. -/

namespace Sys2Proof.Machine

@[simp] theorem Block.finish_fst (b : Block) (d : Word32) : (b.finish d).1 = b := rfl
@[simp] theorem Block.finish_snd (b : Block) (d : Word32) : (b.finish d).2 = ⟨0, d⟩ := rfl
@[simp] theorem Block.raise_fst (b : Block) (e : RspCode) (d : Word32) : (b.raise e d).1 = b := rfl
@[simp] theorem Block.raise_snd (b : Block) (e : RspCode) (d : Word32) : (b.raise e d).2 = ⟨e.bits, d⟩ := rfl
@[simp] theorem illegalCommand_fst (w : Cmd16) (b : Block) : (illegalCommand w b).1 = b := rfl
@[simp] theorem illegalCommand_snd (w : Cmd16) (b : Block) : (illegalCommand w b).2 = ⟨3, zext32 w⟩ := rfl

/-- A raise never answers OK. -/
theorem RspCode.bits_eq_zero_iff (c : RspCode) : c.bits = 0 ↔ c = .ok := by cases c <;> decide

/-- A command that ends answers exactly one next state. -/
@[simp] theorem State.complete_eq_next (s t : State) (r : Block × Response) :
    s.complete r = .next t ↔ t = s.answer r.1 r.2 := by
  unfold State.complete
  exact ⟨fun h => by injection h with h; exact h.symm, fun h => by rw [h]⟩

/-- The count after a push, as a number. -/
@[simp] theorem countPush_toNat (n : BitVec 3) : (countPush n).toNat = min (n.toNat + 1) 7 := by
  unfold countPush Config.lengthLimit
  rw [BitVec.toNat_ofNat]
  omega

/-- A push stores its byte in the entry the count names, when there is one, and leaves every other entry alone. -/
theorem storeFrameByte_getElem (fb : Vector Byte 6) (n : BitVec 3) (v : Byte) (k : Nat) (hk : k < 6) :
    (storeFrameByte fb n v)[k] = if k = n.toNat then v else fb[k] := by
  unfold storeFrameByte
  split
  · rw [Vector.getElem_set]
    simp only [eq_comm]
  · rw [if_neg (by omega)]

theorem State.takeInput?_nil (s : State) (h : s.pending = []) : s.takeInput? = none := by
  simp [State.takeInput?, h]

theorem State.takeInput?_cons (s : State) (x : Input) (rest : List Input) (h : s.pending = x :: rest) :
    s.takeInput? = some (x, { s with pending := rest }) := by
  simp [State.takeInput?, h]

end Sys2Proof.Machine
end

