-- ==== Sys2Proof/Laws/Frame.lean ====
section
/-! SUPPORT. The cases of the frame functions and of the two parsing commands. -/

namespace Sys2Proof.Machine

theorem parseDual_six (f0 f1 f2 f3 f4 f5 : Byte) : parseDual [f0, f1, f2, f3, f4, f5] = checkDual f0 f1 f2 f3 f4 f5 := rfl

theorem parseDual_of_length_ne (f : List Byte) (h : f.length ≠ 6) : parseDual f = .invalidFrameLength f.length := by
  unfold parseDual
  split
  · exact absurd rfl h
  · rfl

theorem parseSingle_three (f0 f1 f2 : Byte) : parseSingle [f0, f1, f2] = .ok (be24 f0 f1 f2) := rfl

theorem parseSingle_of_length_ne (f : List Byte) (h : f.length ≠ 3) : parseSingle f = .invalidFrameLength f.length := by
  unfold parseSingle
  split
  · exact absurd rfl h
  · rfl

/-- `frm.dual` never writes (41_frame.md R89). -/
@[simp] theorem frmDual_fst (b : Block) : (frmDual b).1 = b := by
  unfold frmDual
  split_ifs <;> rfl

/-- The four answers of `frm.dual`, each with the condition it is given under (41_frame.md R89). -/
theorem frmDual_snd_cases (b : Block) :
    (b.flen.toNat ≠ 6 ∧ (frmDual b).2 = ⟨1, zext32 b.flen⟩) ∨
    (b.flen.toNat = 6 ∧ frameChecksum [b.fb[0], b.fb[1]] ≠ b.fb[2] ∧
      (frmDual b).2 = ⟨2, packMismatch 0 (frameChecksum [b.fb[0], b.fb[1]]) b.fb[2]⟩) ∨
    (b.flen.toNat = 6 ∧ frameChecksum [b.fb[0], b.fb[1]] = b.fb[2] ∧ frameChecksum [b.fb[3], b.fb[4]] ≠ b.fb[5] ∧
      (frmDual b).2 = ⟨2, packMismatch 1 (frameChecksum [b.fb[3], b.fb[4]]) b.fb[5]⟩) ∨
    (b.flen.toNat = 6 ∧ frameChecksum [b.fb[0], b.fb[1]] = b.fb[2] ∧ frameChecksum [b.fb[3], b.fb[4]] = b.fb[5] ∧
      (frmDual b).2 = ⟨0, packDual (be16 b.fb[0] b.fb[1]) (be16 b.fb[3] b.fb[4])⟩) := by
  unfold frmDual Config.dualLength
  by_cases hl : b.flen.toNat = 6
  · by_cases ha : frameChecksum [b.fb[0], b.fb[1]] = b.fb[2]
    · by_cases hb : frameChecksum [b.fb[3], b.fb[4]] = b.fb[5]
      · exact .inr (.inr (.inr ⟨hl, ha, hb, by simp [hl, ha, hb]⟩))
      · exact .inr (.inr (.inl ⟨hl, ha, hb, by simp [hl, ha, hb, RspCode.bits]⟩))
    · exact .inr (.inl ⟨hl, ha, by simp [hl, ha, RspCode.bits]⟩)
  · exact .inl ⟨hl, by simp [hl, RspCode.bits]⟩

/-- With six bytes buffered `frm.dual` answers the encoded checks of those bytes, whatever the checksums are. -/
theorem frmDual_snd_of_six (b : Block) (h : b.flen.toNat = 6) :
    (frmDual b).2 = (checkDual b.fb[0] b.fb[1] b.fb[2] b.fb[3] b.fb[4] b.fb[5]).enc := by
  unfold frmDual checkDual
  rw [if_neg (by simp [Config.dualLength, h])]
  generalize frameChecksum [b.fb[0], b.fb[1]] = x
  generalize frameChecksum [b.fb[3], b.fb[4]] = y
  by_cases h1 : x = b.fb[2] <;> by_cases h2 : y = b.fb[5] <;> simp [h1, h2] <;> rfl

/-- The two answers of `frm.single` (41_frame.md R90). -/
theorem frmSingle_cases (b : Block) :
    (b.flen.toNat ≠ 3 ∧ frmSingle b = (b.dropReading, ⟨1, zext32 b.flen⟩)) ∨
    (b.flen.toNat = 3 ∧ frmSingle b =
      (b.latchReading (be24 b.fb[0] b.fb[1] b.fb[2]), ⟨0, zext32 (be24 b.fb[0] b.fb[1] b.fb[2])⟩)) := by
  unfold frmSingle Config.singleLength
  by_cases hl : b.flen.toNat = 3
  · exact .inr ⟨hl, by simp [hl]; rfl⟩
  · exact .inl ⟨hl, by simp [hl]; rfl⟩

/-- The two answers of `sext24` (41_frame.md R91). -/
theorem sext24Cmd_cases (b : Block) :
    (b.r24v = false ∧ sext24Cmd b = (b, ⟨4, 0⟩)) ∨ (b.r24v = true ∧ sext24Cmd b = (b, ⟨0, sext32 b.r24⟩)) := by
  unfold sext24Cmd
  cases h : b.r24v
  · exact .inl ⟨rfl, by rw [(b.latched?_eq_none).2 h]; rfl⟩
  · exact .inr ⟨rfl, by rw [(b.latched?_eq_some b.r24).2 ⟨h, rfl⟩]; rfl⟩

end Sys2Proof.Machine
end

