-- ==== Sys2Proof/Laws/PerInstr.lean ====
section
/-! SUPPORT. Facts made once for each command: where its encoding puts its fields, and that it is well formed. -/

namespace Sys2Proof.Laws

/-- The two fields of a command's word are its operation and its operand, 0 where it has none (30_encoding.md R40,
R42). -/
def EncodedFields.Statement (i : Instr) : Prop :=
  opField (encode i) = i.mnemonic.op ∧ immField (encode i) = i.operand.getD 0

/-- A command passes the checks of the assembler (30_encoding.md R48). -/
def WellFormed.Statement (i : Instr) : Prop := i.wf = true

theorem EncodedFields.crcInit : EncodedFields.Statement .crcInit := ⟨opField_commandWord _ _, immField_commandWord _ _⟩
theorem EncodedFields.crcByte (b : Byte) : EncodedFields.Statement (.crcByte b) := ⟨opField_commandWord _ _, immField_commandWord _ _⟩
theorem EncodedFields.crcRead : EncodedFields.Statement .crcRead := ⟨opField_commandWord _ _, immField_commandWord _ _⟩
theorem EncodedFields.crcSetpoly (p : Byte) : EncodedFields.Statement (.crcSetpoly p) := ⟨opField_commandWord _ _, immField_commandWord _ _⟩
theorem EncodedFields.crcSetinit (i : Byte) : EncodedFields.Statement (.crcSetinit i) := ⟨opField_commandWord _ _, immField_commandWord _ _⟩
theorem EncodedFields.crcGetcfg : EncodedFields.Statement .crcGetcfg := ⟨opField_commandWord _ _, immField_commandWord _ _⟩
theorem EncodedFields.frmClear : EncodedFields.Statement .frmClear := ⟨opField_commandWord _ _, immField_commandWord _ _⟩
theorem EncodedFields.frmPush (b : Byte) : EncodedFields.Statement (.frmPush b) := ⟨opField_commandWord _ _, immField_commandWord _ _⟩
theorem EncodedFields.frmLen : EncodedFields.Statement .frmLen := ⟨opField_commandWord _ _, immField_commandWord _ _⟩
theorem EncodedFields.frmDual : EncodedFields.Statement .frmDual := ⟨opField_commandWord _ _, immField_commandWord _ _⟩
theorem EncodedFields.frmSingle : EncodedFields.Statement .frmSingle := ⟨opField_commandWord _ _, immField_commandWord _ _⟩
theorem EncodedFields.sext24 : EncodedFields.Statement .sext24 := ⟨opField_commandWord _ _, immField_commandWord _ _⟩

theorem WellFormed.crcInit : WellFormed.Statement .crcInit := Instr.wf_eq_true _
theorem WellFormed.crcByte (b : Byte) : WellFormed.Statement (.crcByte b) := Instr.wf_eq_true _
theorem WellFormed.crcRead : WellFormed.Statement .crcRead := Instr.wf_eq_true _
theorem WellFormed.crcSetpoly (p : Byte) : WellFormed.Statement (.crcSetpoly p) := Instr.wf_eq_true _
theorem WellFormed.crcSetinit (i : Byte) : WellFormed.Statement (.crcSetinit i) := Instr.wf_eq_true _
theorem WellFormed.crcGetcfg : WellFormed.Statement .crcGetcfg := Instr.wf_eq_true _
theorem WellFormed.frmClear : WellFormed.Statement .frmClear := Instr.wf_eq_true _
theorem WellFormed.frmPush (b : Byte) : WellFormed.Statement (.frmPush b) := Instr.wf_eq_true _
theorem WellFormed.frmLen : WellFormed.Statement .frmLen := Instr.wf_eq_true _
theorem WellFormed.frmDual : WellFormed.Statement .frmDual := Instr.wf_eq_true _
theorem WellFormed.frmSingle : WellFormed.Statement .frmSingle := Instr.wf_eq_true _
theorem WellFormed.sext24 : WellFormed.Statement .sext24 := Instr.wf_eq_true _

end Sys2Proof.Laws
end

