-- ==== Sys2Proof/Laws/Step.lean ====
section
/-! SUPPORT. What one step and one run can do, once. -/

namespace Sys2Proof.Machine

/-- The transition and the response of a command, on the block alone (10_state.md R22). -/
def effect : Instr → Block → Block × Response
  | .crcInit, b => crcInit b
  | .crcByte v, b => crcByte v b
  | .crcRead, b => crcRead b
  | .crcSetpoly p, b => crcSetpoly p b
  | .crcSetinit v, b => crcSetinit v b
  | .crcGetcfg, b => crcGetcfg b
  | .frmClear, b => frmClear b
  | .frmPush v, b => frmPush v b
  | .frmLen, b => frmLen b
  | .frmDual, b => frmDual b
  | .frmSingle, b => frmSingle b
  | .sext24, b => sext24Cmd b

/-- Every command ends through the one shared operation. -/
theorem exec_eq_complete (i : Instr) (s : State) : exec i s = s.complete (effect i s.block) := by
  cases i <;> rfl

/-- The one next state of a command. -/
theorem exec_eq_next (i : Instr) (s : State) :
    exec i s = .next (s.answer (effect i s.block).1 (effect i s.block).2) := exec_eq_complete i s

/-- The transition and the response of any command word, legal or not (10_state.md R22, 30_encoding.md R43). -/
def wordEffect (w : Cmd16) (b : Block) : Block × Response :=
  match decode w with
  | .legal i => effect i b
  | .illegal _ => illegalCommand w b

theorem step_of_idle (s : State) (h : s.pending = []) : step s = .next s := by
  simp [step, State.takeInput?_nil s h]

theorem step_of_command (s : State) (w : Cmd16) (rest : List Input) (h : s.pending = .command w :: rest) :
    step s = runCommand w { s with pending := rest } := by
  simp [step, State.takeInput?_cons s _ rest h]

theorem step_of_reset (s : State) (rest : List Input) (h : s.pending = .reset :: rest) :
    step s = .next (State.takeReset { s with pending := rest }) := by
  simp [step, State.takeInput?_cons s _ rest h]

theorem runCommand_of_legal (w : Cmd16) (i : Instr) (s : State) (h : decode w = .legal i) :
    runCommand w s = exec i s := by
  simp [runCommand, h]

theorem runCommand_of_illegal (w : Cmd16) (e : IllegalWord) (s : State) (h : decode w = .illegal e) :
    runCommand w s = .next (s.answer s.block ⟨3, zext32 w⟩) := by
  simp [runCommand, h]

/-- What running a command word does, whatever the word is. -/
theorem runCommand_eq_next (w : Cmd16) (s : State) :
    runCommand w s = .next (s.answer (wordEffect w s.block).1 (wordEffect w s.block).2) := by
  unfold runCommand wordEffect
  cases decode w with
  | legal i => exact exec_eq_next i s
  | illegal e => rfl

/-- Everything one step can do: wait, run the oldest command, or take a reset. -/
theorem step_cases (s : State) :
    (s.pending = [] ∧ step s = .next s) ∨
    (∃ w rest, s.pending = .command w :: rest ∧
      step s = .next (State.answer { s with pending := rest } (wordEffect w s.block).1 (wordEffect w s.block).2)) ∨
    (∃ rest, s.pending = .reset :: rest ∧ step s = .next (State.takeReset { s with pending := rest })) := by
  rcases hp : s.pending with _ | ⟨x, rest⟩
  · exact .inl ⟨rfl, step_of_idle s hp⟩
  · cases x with
    | command w => exact .inr (.inl ⟨w, rest, rfl, (step_of_command s w rest hp).trans (runCommand_eq_next w _)⟩)
    | reset => exact .inr (.inr ⟨rest, rfl, step_of_reset s rest hp⟩)

@[simp] theorem run_zero (s : State) : Host.Core.run Sys2Proof.core 0 s = .next s := rfl

/-- A run of any machine whose first step answers a next state goes on from it. -/
theorem coreRun_succ (M : Host.Core) (n : Nat) (s t : M.State) (h : M.step s = .next t) :
    M.run (n + 1) s = M.run n t := by
  simp only [Host.Core.run, h]

/-- A run of the block whose first step answers a next state goes on from it. -/
theorem run_succ_of_step (n : Nat) (s t : State) (h : step s = .next t) :
    Host.Core.run Sys2Proof.core (n + 1) s = Host.Core.run Sys2Proof.core n t :=
  coreRun_succ Sys2Proof.core n s t h

end Sys2Proof.Machine
end

