-- ==== Sys2Proof/Laws/Run.lean ====
section
/-! SUPPORT. Runs: how they are cut in two, and the induction over steps, once. -/

namespace Sys2Proof.Machine

/-- A run goes on from where its first part ended. -/
theorem runs_append (m n : Nat) (s t u : State) (h : Runs m s t) (h' : Runs n t u) : Runs (m + n) s u := by
  induction m generalizing s with
  | zero =>
    have e : s = t := by injection h
    rw [Nat.zero_add, e]
    exact h'
  | succ m ih =>
    rcases step_cases s with ⟨_, hs⟩ | ⟨_, _, _, hs⟩ | ⟨_, _, hs⟩ <;>
      (show Host.Core.run Sys2Proof.core (m + 1 + n) s = _
       rw [Nat.add_right_comm, run_succ_of_step _ _ _ hs]
       exact ih _ ((run_succ_of_step _ _ _ hs).symm.trans h))

/-- What every step keeps, every run keeps, and no run stops. -/
theorem runs_keep (P : State → Prop) (hstep : ∀ s, P s → ∃ t, step s = .next t ∧ P t) (n : Nat) (s : State) (h : P s) :
    ∃ t, Runs n s t ∧ P t := by
  induction n generalizing s with
  | zero => exact ⟨s, rfl, h⟩
  | succ n ih =>
    obtain ⟨u, hu, hP⟩ := hstep s h
    obtain ⟨t, ht, hQ⟩ := ih u hP
    exact ⟨t, (run_succ_of_step _ _ _ hu).trans ht, hQ⟩

end Sys2Proof.Machine
end

