-- ==== Sys2Proof/Tests/Slice0.lean ====
section
/-! SUPPORT. The model's own tests. Expected results are from spec/95_test_vectors.md and from the examples of the rules
named in each theorem's comment; the words of the decode tests are written out from the table of 30_encoding.md R42. -/

namespace Sys2Proof.Tests

open Sys2Proof.Machine

/-! ### Small states -/

/-- The frame of vector V-F1. -/
def goodFrame : Vector Byte 6 := #v[0xBE, 0xEF, 0x92, 0x65, 0x7D, 0x17]

/-- A block with reset values in the CRC engine. -/
def block (fb : Vector Byte 6) (flen : BitVec 3) (r24 : Reading24) (r24v : Bool) : Block :=
  ⟨0xFF, 0x31, 0xFF, fb, flen, r24, r24v⟩

/-- A state with nothing answered yet. -/
def state (b : Block) (pending : List Input) : State := ⟨b, pending, [], 0⟩

/-- The state with the frame of V-F1 buffered and a reading latched. -/
def full : State := state (block goodFrame 6 0x800000 true) []

/-- The next state, where there is one. -/
def nextOf (o : Host.Outcome State Fault Refusal) : Option State :=
  match o with
  | .next t => some t
  | .fault _ => none
  | .refused _ => none

/-- What a command leaves in the block, and its response. -/
def after (i : Instr) (s : State) : Option (Block × Option Response) :=
  (nextOf (exec i s)).map fun t => (t.block, t.responses.getLast?)

/-! ### WellFormed: an ill-formed line for each check, refused (30_encoding.md R48) -/

theorem test_wf_refuses_operand_256 : (AsmLine.mk .crcByte (some 256)).wf = false := by decide
theorem test_wf_refuses_operand_on_form_n : (AsmLine.mk .crcInit (some 0)).wf = false := by decide
theorem test_wf_refuses_missing_operand : (AsmLine.mk .frmPush none).wf = false := by decide
theorem test_wf_accepts_operand_255 : (AsmLine.mk .crcSetpoly (some 255)).wf = true := by decide

/-! ### Decoding: words written out bit by bit -/

theorem test_decode_crc_engine :
    decode 0b0000000100000000 = .legal .crcInit ∧ decode 0b0000001010111110 = .legal (.crcByte 0xBE) ∧
    decode 0b0000001100000000 = .legal .crcRead ∧ decode 0b0000010000000111 = .legal (.crcSetpoly 0x07) ∧
    decode 0b0000010101011010 = .legal (.crcSetinit 0x5A) ∧ decode 0b0000011000000000 = .legal .crcGetcfg := by decide

theorem test_decode_frame_parser :
    decode 0b0001000000000000 = .legal .frmClear ∧ decode 0b0001000111101111 = .legal (.frmPush 0xEF) ∧
    decode 0b0001001000000000 = .legal .frmLen ∧ decode 0b0001001100000000 = .legal .frmDual ∧
    decode 0b0001010000000000 = .legal .frmSingle ∧ decode 0b0001010100000000 = .legal .sext24 := by decide

/-- 95_test_vectors.md section 2.5. -/
theorem test_decode_illegal :
    decode 0x0000 = .illegal (.unassignedOp 0x00) ∧ decode 0x0700 = .illegal (.unassignedOp 0x07) ∧
    decode 0x1600 = .illegal (.unassignedOp 0x16) ∧ decode 0xFFFF = .illegal (.unassignedOp 0xFF) ∧
    decode 0x15FF = .illegal (.immediateOnFormN .sext24 0xFF) := by decide

theorem test_table_words : decodeTableWord 16 0x02BE = some (.crcByte 0xBE) ∧ decodeTableWord 16 0x0301 = none := by decide

/-- The rows of the match and mask table do not overlap (30_encoding.md R42). -/
theorem test_table_rows_are_disjoint : opcodeTable.Pairwise fun a b => a.pattern &&& b.mask ≠ b.pattern &&& a.mask := by
  decide

theorem test_fetch_word_runs_first :
    (nextOf (step (State.reset.withFetchWord 16 0x0300))).map (·.responses) = some [⟨0, 0xFF⟩] := by decide

/-! ### The pure functions -/

/-- 40_crc.md R60, 95_test_vectors.md section 2.1: the first step of the trace, and a full byte. -/
theorem test_crc_steps : crcShift1 0x41 0x31 = 0x82 ∧ crcByteStep 0x0C 0xEF 0x31 = 0x92 := by decide

/-- 95_test_vectors.md section 2.1; the second value is the corrected one of 90_conflicts.md C1. -/
theorem test_crc8 : crc8 [0xBE, 0xEF] 0x31 0xFF = 0x92 ∧ crc8 [0x65, 0x7D] 0x31 0xFF = 0x17 ∧
    crc8 [0x31, 0x32, 0x33, 0x34, 0x35, 0x36, 0x37, 0x38, 0x39] 0x07 0x00 = 0xF4 := by decide +kernel

/-- 95_test_vectors.md section 2.3. -/
theorem test_readings : be16 0xBE 0xEF = 0xBEEF ∧ be24 0x12 0x34 0x56 = 0x123456 ∧ sext24 0xC00000 = -4194304 := by decide

/-- 95_test_vectors.md V-F13 and V-F12. -/
theorem test_parse_dual : parseDual [0xBE, 0xEF, 0x93, 0x65, 0x7D, 0x05] = .checksumMismatch 0 0x93 0x92 ∧
    parseDual [0xBE, 0xEF, 0x92, 0x65, 0x7D, 0x16] = .checksumMismatch 1 0x16 0x17 := by decide +kernel

/-! ### The commands -/

/-- V-C6: `CRC` changes only at `crc.init`. -/
theorem test_crc_init : after .crcInit (state ⟨0xFF, 0x31, 0x5A, goodFrame, 0, 0, false⟩ []) =
    some (⟨0x5A, 0x31, 0x5A, goodFrame, 0, 0, false⟩, some ⟨0, 0x0000005A⟩) := by decide

/-- V-C2. -/
theorem test_crc_byte : after (.crcByte 0xBE) (state (block goodFrame 0 0 false) []) =
    some (⟨0x0C, 0x31, 0xFF, goodFrame, 0, 0, false⟩, some ⟨0, 0x0000000C⟩) := by decide

/-- V-C8: the polynomial as it stands. -/
theorem test_crc_byte_other_poly : after (.crcByte 0xEF) (state ⟨0x0C, 0x07, 0xFF, goodFrame, 0, 0, false⟩ []) =
    some (⟨0xA7, 0x07, 0xFF, goodFrame, 0, 0, false⟩, some ⟨0, 0x000000A7⟩) := by decide

/-- P1, step 4. -/
theorem test_crc_read : after .crcRead (state ⟨0x92, 0x31, 0xFF, goodFrame, 0, 0, false⟩ []) =
    some (⟨0x92, 0x31, 0xFF, goodFrame, 0, 0, false⟩, some ⟨0, 0x00000092⟩) := by decide

/-- 40_crc.md R68's example. -/
theorem test_crc_setpoly : after (.crcSetpoly 0x07) full =
    some (⟨0xFF, 0x07, 0xFF, goodFrame, 6, 0x800000, true⟩, some ⟨0, 0x00000007⟩) := by decide

/-- 40_crc.md R69's example. -/
theorem test_crc_setinit : after (.crcSetinit 0x00) full =
    some (⟨0xFF, 0x31, 0x00, goodFrame, 6, 0x800000, true⟩, some ⟨0, 0x00000000⟩) := by decide

/-- V-C4. -/
theorem test_crc_getcfg : after .crcGetcfg full = some (full.block, some ⟨0, 0x0000FF31⟩) := by decide

/-- 41_frame.md R86: the reading stays latched. -/
theorem test_frm_clear : after .frmClear full = some (block goodFrame 0 0x800000 true, some ⟨0, 0⟩) := by decide

/-- 41_frame.md R87's example, and V-F31: the seventh byte is dropped. -/
theorem test_frm_push : after (.frmPush 0x11) (state (block goodFrame 0 0 false) []) =
    some (block #v[0x11, 0xEF, 0x92, 0x65, 0x7D, 0x17] 1 0 false, some ⟨0, 1⟩) := by decide

theorem test_frm_push_seventh : after (.frmPush 0x11) full = some (block goodFrame 7 0x800000 true, some ⟨0, 7⟩) := by
  decide

/-- 41_frame.md R88. -/
theorem test_frm_len : after .frmLen full = some (full.block, some ⟨0, 6⟩) := by decide

/-- V-F1. -/
theorem test_frm_dual : after .frmDual full = some (full.block, some ⟨0, 0xBEEF657D⟩) := by decide +kernel

/-- V-F10. -/
theorem test_frm_dual_mismatch_b :
    after .frmDual (state (block #v[0xBE, 0xEF, 0x92, 0xE5, 0x7D, 0x17] 6 0 false) []) =
      some (block #v[0xBE, 0xEF, 0x92, 0xE5, 0x7D, 0x17] 6 0 false, some ⟨2, 0x00013417⟩) := by decide +kernel

/-- V-F26. -/
theorem test_frm_single : after .frmSingle (state (block #v[0x80, 0x00, 0x00, 0, 0, 0] 3 0 false) []) =
    some (block #v[0x80, 0x00, 0x00, 0, 0, 0] 3 0x800000 true, some ⟨0, 0x00800000⟩) := by decide

/-- V-F24: a dual frame is no single frame, and the flag is cleared. -/
theorem test_frm_single_wrong_length : after .frmSingle full = some (block goodFrame 6 0x800000 false, some ⟨1, 6⟩) := by
  decide

/-- V-F26. -/
theorem test_sext24 : after .sext24 full = some (full.block, some ⟨0, 0xFF800000⟩) := by decide

/-- V-F29. -/
theorem test_sext24_no_value : after .sext24 State.reset = some (State.reset.block, some ⟨4, 0⟩) := rfl

/-- V-F34: an illegal word leaves `R24V` at 1. -/
theorem test_illegal_step : nextOf (step { full with pending := [.command 0x1401] }) =
    some { full with responses := [⟨3, 0x00001401⟩] } := by decide

/-- 70_reset_and_hazards.md R130. -/
theorem test_reset_step : (nextOf (step { full with pending := [.reset] })).map
    (fun t => (t.block.crc, t.block.poly, t.block.init, t.block.flen, t.block.r24v)) =
      some (0xFF, 0x31, 0xFF, 0, false) := by decide

/-! ### The assembler -/

/-- 30_encoding.md R48, R49: a pseudo-instruction, a decimal operand and a comment; an operand too large. -/
theorem test_assembler : assembleLine "crc.seq 0xBE, 239 ; pair".toList = .ok [0x0100, 0x02BE, 0x02EF] ∧
    assembleLine "crc.byte 256".toList = .error .operandOutOfRange ∧
    assembleLine "CRC.INIT".toList = .error .unknownMnemonic := by decide

/-! ### Witnesses: for each statement with hypotheses, values that meet them -/

/-- DecodeAndEncodeAreInverse, DecoderAgreesWithMatchAndMask, OperandIsTheUnsignedLowByte. -/
theorem witness_decoded_word : decode 0x11FF = .legal (.frmPush 0xFF) ∧ (Instr.frmPush 0xFF).operand = some 0xFF ∧
    (Mnemonic.frmPush, (0x1100 : Cmd16), (0xFF00 : Cmd16)) ∈
      ([(.frmPush, 0x1100, 0xFF00)] : List (Mnemonic × Cmd16 × Cmd16)) := by decide

/-- IllegalWordsAreCountedAndHaveNoEffect: each clause at the ends of its range. -/
theorem witness_op_classes :
    (0x00 : Byte) ∉ ([0x01, 0x03, 0x06, 0x10, 0x12, 0x13, 0x14, 0x15] ++ [0x02, 0x04, 0x05, 0x11] : List Byte) ∧
    (0x16 : Byte) ∉ ([0x01, 0x03, 0x06, 0x10, 0x12, 0x13, 0x14, 0x15] ++ [0x02, 0x04, 0x05, 0x11] : List Byte) ∧
    (0xFF : Byte) ∉ ([0x01, 0x03, 0x06, 0x10, 0x12, 0x13, 0x14, 0x15] ++ [0x02, 0x04, 0x05, 0x11] : List Byte) ∧
    (0x01 : Byte) ∈ ([0x01, 0x03, 0x06, 0x10, 0x12, 0x13, 0x14, 0x15] : List Byte) ∧
    (0x15 : Byte) ∈ ([0x01, 0x03, 0x06, 0x10, 0x12, 0x13, 0x14, 0x15] : List Byte) ∧
    (0x02 : Byte) ∈ ([0x02, 0x04, 0x05, 0x11] : List Byte) ∧ (0x11 : Byte) ∈ ([0x02, 0x04, 0x05, 0x11] : List Byte) := by
  decide

/-- IllegalWordsAreCountedAndHaveNoEffect, and the second half of `FormNWords` for each
form-N operation (the eight command rules). -/
theorem witness_illegal_command :
    (decode 0x1301).isLegal = false ∧ decode 0x1301 = .illegal (.immediateOnFormN .frmDual 1) ∧
    ({ full with pending := [.command 0x1301] } : State).pending = .command 0x1301 :: [] ∧
    (∀ op ∈ ([0x01, 0x03, 0x06, 0x10, 0x12, 0x13, 0x14, 0x15] : List Byte), ∀ imm ∈ ([0x01, 0xFF] : List Byte),
      imm ≠ 0 ∧ ({ full with pending := [.command (commandWord op imm)] } : State).pending =
        .command (commandWord op imm) :: []) := by decide

/-- StepRunsTheDecodedCommand, ErrorsAreResponsesAndNeverStop, RegistersChangeOnlyByTheirWriters. -/
theorem witness_pending_command :
    ({ full with pending := [.command 0x1400, .reset] } : State).pending = .command 0x1400 :: [.reset] ∧
    decode 0x1400 = .legal .frmSingle := by decide

/-- ErrorsAreResponsesAndNeverStop: a command answered with an error, once with no write and once with the flag. -/
theorem witness_error_responses :
    (after .frmSingle full).map (·.2) = some (some ⟨1, 6⟩) ∧ (1 : BitVec 3) ≠ 0 ∧
    (after .sext24 (state (block goodFrame 0 0 false) [])).map (·.2) = some (some ⟨4, 0⟩) ∧ (4 : BitVec 3) ≠ 0 := by decide

/-- IdleAndResetStepsAtThePorts, ResetSetsFiveRegistersAndHidesTheRest (first part). -/
theorem witness_idle_and_reset : full.pending = [] ∧
    ({ full with pending := [.reset, .command 0x0300] } : State).pending = .reset :: [.command 0x0300] := by decide

/-- RunsAnswerCommandsInIssueOrder. -/
theorem witness_issued_words : ({ full with pending := [.command 0x0300, .command 0x0000, .reset] } : State).pending =
    ([0x0300, 0x0000] : List Cmd16).map Input.command ++ [.reset] ∧ 2 ≤ ([0x0300, 0x0000] : List Cmd16).length := by decide

/-- ResetSetsFiveRegistersAndHidesTheRest (second part) and UnreadBitsNeverReachTheHost: two states that differ in the
unread bits only. -/
theorem witness_unread_bits :
    (state (block goodFrame 0 0x123456 false) []).block.IsReset ∧
    (state (block #v[0, 0, 0, 0, 0, 0] 0 0 false) []).block.IsReset ∧
    (state (block goodFrame 2 0x123456 false) []).block.SameToHost
      (state (block #v[0xBE, 0xEF, 0, 0, 0, 0] 2 0 false) []).block ∧
    (block goodFrame 2 0x123456 true).SameToHost (block #v[0xBE, 0xEF, 1, 2, 3, 4] 2 0x123456 true) := by decide

/-- BitStepShiftsAndXorsOnTheTopBit at the two sides of the boundary. -/
theorem witness_top_bit : 128 ≤ (0x80 : Byte).toNat ∧ (0x7F : Byte).toNat < 128 := by decide

/-- ChecksumAlgebraicLaws. -/
theorem witness_nonempty_data : ([0x00] : List Byte) ≠ [] := by decide

/-- CrcByteTakesOneByteIn: the conditional clauses. -/
theorem witness_crc_byte : (⟨0xFF, 0x00, 0xFF, goodFrame, 0, 0, false⟩ : Block).poly = 0 ∧
    full.block.poly = 0x31 ∧ full.block.crc = 0xFF ∧ (⟨0x0C, 0x31, 0xFF, goodFrame, 0, 0, false⟩ : Block).crc = 0x0C ∧
    (⟨0x0C, 0x31, 0xFF, goodFrame, 0, 0, false⟩ : Block).poly = 0x31 := by decide

/-- ConfigurationTakesEffectAtOnce. -/
theorem witness_configuration : (∃ t, exec (.crcSetpoly 0x07) full = .next t) ∧
    ∃ t, exec (.crcSetinit 0x5A) full = .next t := ⟨⟨_, rfl⟩, ⟨_, rfl⟩⟩

/-- CrcCommandsComputeTheChecksum, with frame commands between. -/
theorem witness_fresh_checksum :
    [Instr.frmLen, .crcSetpoly 0x07, .crcSetinit 0, .crcInit, .frmClear, .crcByte 0xBE, .frmPush 1].filter
      Instr.isCrcEngine = expand (.crcConfig 0x07 0) ++ expand (.crcSeq [0xBE]) ∧
    FreshChecksum [.frmLen, .crcInit, .frmClear, .crcByte 0xBE] [0xBE] ∧
    (state full.block (commandInputs [.frmLen, .crcInit, .frmClear, .crcByte 0xBE])).pending =
      commandInputs [.frmLen, .crcInit, .frmClear, .crcByte 0xBE] ∧
    (state full.block (commandInputs (expand (.crcSeq [])))).pending = commandInputs (expand (.crcSeq [])) := by decide

/-- SignedCorrectionIsTwosComplement at the boundaries. -/
theorem witness_signed_range : 2 ^ 23 ≤ (0x800000 : Reading24).toNat ∧ (0x7FFFFF : Reading24).toNat < 2 ^ 23 ∧
    (-(2 ^ 23) ≤ (-8388608 : Int) ∧ (-8388608 : Int) < 2 ^ 23) ∧ (-(2 ^ 23) ≤ (8388607 : Int) ∧ (8388607 : Int) < 2 ^ 23) := by
  decide

/-- ParsersCheckLengthThenAThenB: a frame for each clause. -/
theorem witness_parser_clauses : ([] : List Byte).length ≠ 6 ∧ ([0, 0, 0, 0, 0, 0, 0] : List Byte).length ≠ 6 ∧
    crc8 [0xBE, 0xEF] 0x31 0xFF ≠ 0x93 ∧ crc8 [0xBE, 0xEF] 0x31 0xFF = 0x92 ∧ crc8 [0x65, 0x7D] 0x31 0xFF ≠ 0x05 ∧
    crc8 [0x65, 0x7D] 0x31 0xFF = 0x17 ∧ ([0, 0, 0, 0] : List Byte).length ≠ 3 := by decide +kernel

/-- DualFrameCatchesSmallErrors: a frame that parses, and a pattern of each kind. -/
theorem witness_small_errors : parseDual [0xBE, 0xEF, 0x92, 0x65, 0x7D, 0x17] = .ok 0xBEEF 0x657D ∧
    (0x000001 : BitVec 24) ≠ 0 ∧ weight (0x800101 : BitVec 24) ≤ 3 ∧ weight (0x80FF0F : BitVec 24) % 2 = 1 := by decide +kernel

/-- DualFrameCatchesSmallErrors: the longest burst, across a byte boundary. -/
theorem witness_burst : IsBurst8 (0x000FF0 : BitVec 24) := by
  refine ⟨4, fun j hj => ?_⟩
  have h24 : j < 24 := BitVec.lt_of_getLsbD hj
  interval_cases j <;> simp_all

/-- FrmDualChecksAndReturnsBothReadings: a block for each of the four answers. -/
theorem witness_frm_dual_clauses :
    (block goodFrame 5 0 false).flen.toNat ≠ 6 ∧ (block goodFrame 7 0 false).flen.toNat ≠ 6 ∧
    full.block.flen.toNat = 6 ∧ crc8 [full.block.fb[0], full.block.fb[1]] 0x31 0xFF = full.block.fb[2] ∧
    crc8 [full.block.fb[3], full.block.fb[4]] 0x31 0xFF = full.block.fb[5] ∧
    crc8 [0xBE, 0xEF] 0x31 0xFF ≠ (#v[0xBE, 0xEF, 0x93, 0, 0, 0] : Vector Byte 6)[2] ∧
    crc8 [0x65, 0x7D] 0x31 0xFF ≠ (#v[0xBE, 0xEF, 0x92, 0x65, 0x7D, 0x05] : Vector Byte 6)[5] := by decide +kernel

/-- FrmSingleLatchesOrClears and Sext24ConvertsTheLatchedReading: a block for each answer. -/
theorem witness_single_clauses : (block goodFrame 3 0 false).flen.toNat = 3 ∧ (block goodFrame 2 0 false).flen.toNat ≠ 3 ∧
    (block goodFrame 4 0 false).flen.toNat ≠ 3 ∧ full.block.r24v = true ∧ (block goodFrame 3 0 false).r24v = false := by
  decide

/-- FrameCommandsRealiseTheParsers, with CRC commands between, for a frame of the right length for each parser and a
longer one. -/
theorem witness_fresh_frame :
    FreshFrame [.crcRead, .frmClear, .frmPush 0x80, .crcByte 1, .frmPush 0, .frmPush 0] [0x80, 0, 0] ∧
    parseSingle [0x80, 0, 0] = .ok 0x800000 ∧
    FreshFrame (expand (.frmLoad [0xBE, 0xEF, 0x92, 0x65, 0x7D, 0x17])) [0xBE, 0xEF, 0x92, 0x65, 0x7D, 0x17] ∧
    FreshFrame (expand (.frmLoad [0, 1, 2, 3, 4, 5, 6, 7])) [0, 1, 2, 3, 4, 5, 6, 7] ∧
    (state full.block (commandInputs (expand (.frmLoad [])))).pending = commandInputs (expand (.frmLoad [])) := by decide

/-- Sext24AnswersForTheMostRecentSingle. -/
theorem witness_no_single : Instr.frmSingle ∉ [Instr.frmClear, .frmPush 0, .sext24] ∧
    (state full.block (commandInputs [.frmClear, .frmPush 0, .sext24])).pending =
      commandInputs [.frmClear, .frmPush 0, .sext24] ∧ full.block.r24v = true ∧
    (block goodFrame 0 0 false).r24v = false := by decide

/-- RegistersChangeOnlyByTheirWriters: a command that changes each register. -/
theorem witness_register_changes :
    (after (.crcByte 0xBE) full).map (·.1.crc) ≠ some full.block.crc ∧
    (after (.crcSetpoly 0) full).map (·.1.poly) ≠ some full.block.poly ∧
    (after (.crcSetinit 0) full).map (·.1.init) ≠ some full.block.init ∧
    (after (.frmPush 1) (state (block goodFrame 0 0 false) [])).map (·.1.fb) ≠ some goodFrame ∧
    (after .frmClear full).map (·.1.flen) ≠ some full.block.flen ∧
    (after .frmSingle (state (block goodFrame 3 0 false) [])).map (·.1.r24) ≠ some 0 ∧
    (after .frmSingle full).map (·.1.r24v) ≠ some full.block.r24v := by decide

/-- PushedBytesAreNeverChanged. -/
theorem witness_pushed_byte : ((5 : Fin 6) : Nat) < full.block.flen.toNat ∧ Instr.frmPush 0 ≠ .frmClear := by decide

/-- IdempotentCommandsAnswerTwiceAlike. -/
theorem witness_idempotent : Instr.sext24 ∈ [Instr.crcRead, .crcGetcfg, .frmLen, .frmDual, .sext24] ∧
    (∀ b, Instr.frmSingle ≠ .crcByte b) ∧ ∀ b, Instr.frmSingle ≠ .frmPush b :=
  ⟨by decide, fun _ => by simp, fun _ => by simp⟩

/-- CommandGroupsDoNotInterfere, PseudoInstructionsExpandInOrder. -/
theorem witness_mixed_commands :
    (state full.block (commandInputs [.crcInit, .frmClear])).pending = commandInputs [.crcInit, .frmClear] ∧
    (state full.block (commandInputs (expand (.crcConfig 1 2)))).pending = commandInputs (expand (.crcConfig 1 2)) ∧
    (state full.block (commandInputs (expand (.crcSeq [1, 2])))).pending = commandInputs (expand (.crcSeq [1, 2])) := by
  decide

/-- EveryStepKeepsTheInvariant: a state with a latched reading and a response of each code. -/
theorem witness_invariant : State.Inv { full with
    responses := [⟨0, 0x00800000⟩, ⟨1, 5⟩, ⟨2, 0x00011705⟩, ⟨3, 0x1401⟩, ⟨4, 0⟩] } := by decide

/-- AssemblerGivesTheWordOrRefuses, AssemblerLayoutChosenByTheModel. -/
theorem witness_assembler : Mnemonic.crcByte.form = .formI ∧ Mnemonic.crcInit.form = .formN ∧ (255 : Nat) < 256 ∧
    (256 : Nat) ≤ 256 ∧ ';' ∉ "frm.dual ".toList := by decide

/-- AssemblerLayoutChosenByTheModel: a line that begins with blanks. -/
theorem witness_blanks : ∀ c ∈ [' ', '\t'], c = ' ' ∨ c = '\t' := by simp

end Sys2Proof.Tests
end

section
/-! SUPPORT. The decoder and the encoder, by mnemonic: the word `{op of m, imm}` and the command it is. -/

namespace Sys2Proof

open Machine (allMnemonics)

/-! ### Mnemonics -/

theorem mem_allMnemonics (m : Mnemonic) : m ∈ allMnemonics := by cases m <;> decide

/-- A command has no operand exactly when it is of form N (30_encoding.md R40, R41). -/
theorem Instr.operand_eq_none_iff (i : Instr) : i.operand = none ↔ i.mnemonic.form = .formN := by
  cases i <;> simp [Instr.operand, Instr.mnemonic, Mnemonic.form]

/-- The command of a mnemonic with the byte `imm`, which a form-N command does not hold. -/
def Mnemonic.command (imm : Byte) : Mnemonic → Instr
  | .crcInit => .crcInit
  | .crcByte => .crcByte imm
  | .crcRead => .crcRead
  | .crcSetpoly => .crcSetpoly imm
  | .crcSetinit => .crcSetinit imm
  | .crcGetcfg => .crcGetcfg
  | .frmClear => .frmClear
  | .frmPush => .frmPush imm
  | .frmLen => .frmLen
  | .frmDual => .frmDual
  | .frmSingle => .frmSingle
  | .sext24 => .sext24

@[simp] theorem Mnemonic.command_mnemonic (m : Mnemonic) (imm : Byte) : (m.command imm).mnemonic = m := by
  cases m <;> rfl

theorem Mnemonic.command_operand (m : Mnemonic) (imm : Byte) :
    (m.command imm).operand = if m.form = .formN then none else some imm := by
  cases m <;> rfl

/-- A command is the one its mnemonic makes of its operand. -/
@[simp] theorem Instr.command_mnemonic_operand (i : Instr) : i.mnemonic.command (i.operand.getD 0) = i := by
  cases i <;> rfl

/-! ### The fields of an encoded command -/

@[simp] theorem opField_encode (i : Instr) : opField (encode i) = i.mnemonic.op := opField_commandWord _ _

@[simp] theorem immField_encode (i : Instr) : immField (encode i) = i.operand.getD 0 := immField_commandWord _ _

/-- `IMM8` is the word modulo 256 (30_encoding.md R40). -/
theorem immField_toNat (w : Cmd16) : (immField w).toNat = w.toNat % 256 := by
  rw [immField, BitVec.extractLsb'_toNat, Nat.shiftRight_zero]

/-! ### What the decoder makes of a word -/

/-- An assigned `OP` decodes to its command, but for form N with a nonzero `IMM8` (30_encoding.md R43). -/
theorem decodeFields_op (m : Mnemonic) (imm : Byte) :
    decodeFields m.op imm =
      if m.form = .formN ∧ imm ≠ 0 then .illegal (.immediateOnFormN m imm) else .legal (m.command imm) := by
  by_cases h : imm = 0 <;> cases m <;>
    simp [decodeFields, decodeFormN, Mnemonic.op, Mnemonic.form, Mnemonic.command, Instr.mnemonic, h]

/-- An `OP` that is none of the twelve is illegal with every `IMM8` (30_encoding.md R44). -/
theorem decodeFields_unassigned (op imm : Byte) (h : ∀ m : Mnemonic, op ≠ m.op) :
    decodeFields op imm = .illegal (.unassignedOp op) := by
  have key : ∀ m ∈ allMnemonics, op.toNat ≠ m.op.toNat := fun m _ e => h m (BitVec.eq_of_toNat_eq e)
  simp only [allMnemonics, List.forall_mem_cons, Mnemonic.op, BitVec.reduceToNat] at key
  simp [decodeFields, key]

/-- Decoding undoes encoding. -/
@[simp] theorem decode_encode (i : Instr) : decode (encode i) = .legal i := by
  have formN : ¬ (i.mnemonic.form = .formN ∧ i.operand.getD 0 ≠ 0) := by
    rintro ⟨hform, himm⟩
    rw [(Instr.operand_eq_none_iff i).2 hform] at himm
    exact himm rfl
  rw [encode, decode_commandWord, decodeFields_op, if_neg formN, Instr.command_mnemonic_operand]

/-- A word decodes to a command exactly when it is that command's word. -/
theorem decode_eq_legal_iff (w : Cmd16) (i : Instr) : decode w = .legal i ↔ w = encode i := by
  refine ⟨fun h => ?_, fun h => h ▸ decode_encode i⟩
  by_cases assigned : ∃ m : Mnemonic, opField w = m.op
  · obtain ⟨m, hop⟩ := assigned
    rw [decode, hop, decodeFields_op] at h
    split_ifs at h with hillegal
    injection h with hi
    rw [← commandWord_fields w, hop, encode, ← hi, Mnemonic.command_mnemonic, Mnemonic.command_operand]
    by_cases hform : m.form = .formN
    · have himm : immField w = 0 := by_contra fun hne => hillegal ⟨hform, hne⟩
      rw [if_pos hform, himm, Option.getD_none]
    · rw [if_neg hform, Option.getD_some]
  · rw [decode, decodeFields_unassigned _ _ (not_exists.1 assigned)] at h
    cases h

/-- A word decodes to a command of a mnemonic exactly when it has the mnemonic's `OP` and, in form N, `IMM8 = 0`. -/
theorem exists_decode_mnemonic_iff (w : Cmd16) (m : Mnemonic) :
    (∃ i : Instr, decode w = .legal i ∧ i.mnemonic = m) ↔ opField w = m.op ∧ (m.form = .formN → immField w = 0) := by
  constructor
  · rintro ⟨i, hw, rfl⟩
    obtain rfl := (decode_eq_legal_iff w i).1 hw
    refine ⟨opField_encode i, fun hform => ?_⟩
    rw [immField_encode, (Instr.operand_eq_none_iff i).2 hform, Option.getD_none]
  · rintro ⟨hop, himm⟩
    refine ⟨m.command (immField w), ?_, Mnemonic.command_mnemonic m _⟩
    rw [decode, hop, decodeFields_op, if_neg fun ⟨hform, hne⟩ => hne (himm hform)]

end Sys2Proof
end

section
/-! The match and mask table (30_encoding.md R42). -/

namespace Sys2Proof

open Machine (allMnemonics)

/-- The mask of a form: all bits in form N, the bits of `OP` in form I (30_encoding.md R42). -/
def Form.mask : Form → Cmd16
  | .formN => 0xFFFF
  | .formI => 0xFF00

theorem commandWord_inj {op op' imm imm' : Byte} :
    commandWord op imm = commandWord op' imm' ↔ op = op' ∧ imm = imm' := by
  refine ⟨fun h => ⟨?_, ?_⟩, fun ⟨hop, himm⟩ => by rw [hop, himm]⟩
  · simpa using congrArg opField h
  · simpa using congrArg immField h

/-- The mask of form I keeps `OP` and clears `IMM8`. -/
theorem and_mask_formI (w : Cmd16) : w &&& Form.formI.mask = commandWord (opField w) 0 := by
  have mask_eq : Form.formI.mask = commandWord (BitVec.allOnes 8) 0 := by decide
  conv_lhs => rw [← commandWord_fields w, mask_eq]
  rw [commandWord, commandWord, BitVec.and_append, BitVec.and_allOnes]
  exact congrArg (opField w ++ ·) BitVec.and_zero

/-- The mask of form N keeps the word. -/
theorem and_mask_formN (w : Cmd16) : w &&& Form.formN.mask = w := BitVec.and_allOnes

/-- A word meets a mnemonic's match and mask exactly when it decodes to a command of the mnemonic. -/
theorem match_mask_iff_decodes (w : Cmd16) (m : Mnemonic) :
    w &&& m.form.mask = commandWord m.op 0 ↔ ∃ i : Instr, decode w = .legal i ∧ i.mnemonic = m := by
  rw [exists_decode_mnemonic_iff]
  cases hform : m.form with
  | formN =>
    rw [and_mask_formN]
    conv_lhs => rw [← commandWord_fields w, commandWord_inj]
    simp
  | formI =>
    rw [and_mask_formI, commandWord_inj]
    simp

/-- Settles O2: the table written out is the one the mnemonics' `OP` values and forms give, and each of its rows is
`match_mask_iff_decodes`. -/
theorem decoderAgreesWithMatchAndMask : Obligations.DecoderAgreesWithMatchAndMask := by
  unfold Obligations.DecoderAgreesWithMatchAndMask
  intro table
  have table_eq : table = allMnemonics.map fun m => (m, commandWord m.op 0, m.form.mask) := by decide
  rw [table_eq]
  refine ⟨?_, fun w i hw => ?_⟩
  · intro row hrow w
    obtain ⟨m, -, rfl⟩ := List.mem_map.1 hrow
    exact match_mask_iff_decodes w m
  · exact ⟨_, List.mem_map_of_mem (mem_allMnemonics i.mnemonic), rfl, (match_mask_iff_decodes w _).2 ⟨i, hw, rfl⟩⟩

end Sys2Proof
end

section
/-! Illegal words (30_encoding.md R44) and operands (R41). -/

namespace Sys2Proof

open Machine

/-- A word decodes to a command exactly when its `OP` is a mnemonic's and, in form N, its `IMM8` is 0. -/
theorem isLegal_decodeFields_op (m : Mnemonic) (imm : Byte) :
    (decodeFields m.op imm).isLegal = true ↔ (m.form = .formN → imm = 0) := by
  rw [decodeFields_op]
  split_ifs with h
  · exact iff_of_false nofun fun himm => h.2 (himm h.1)
  · exact iff_of_true rfl fun hform => by_contra fun hne => h ⟨hform, hne⟩

/-- The number of `IMM8` values with which an `OP` makes an illegal word. -/
def illegalWordCount (op : Byte) : Nat :=
  ((List.range 256).filter fun n => !(decode (commandWord op (BitVec.ofNat 8 n))).isLegal).length

theorem illegalWordCount_unassigned (op : Byte) (h : ∀ m : Mnemonic, op ≠ m.op) : illegalWordCount op = 256 := by
  simp [illegalWordCount, decodeFields_unassigned op _ h]

/-- In form N only `IMM8 = 0` is legal. -/
theorem illegalWordCount_formN (m : Mnemonic) (h : m.form = .formN) : illegalWordCount m.op = 255 := by
  have illegal (imm : Byte) : (decodeFields m.op imm).isLegal = decide (imm = 0) := by
    rw [Bool.eq_iff_iff, isLegal_decodeFields_op, decide_eq_true_iff]
    exact ⟨fun himm => himm h, fun himm _ => himm⟩
  simp only [illegalWordCount, decode_commandWord, illegal]
  decide +kernel

theorem illegalWordCount_formI (m : Mnemonic) (h : m.form = .formI) : illegalWordCount m.op = 0 := by
  have legal (imm : Byte) : (decodeFields m.op imm).isLegal = true := by
    rw [isLegal_decodeFields_op, h]
    exact nofun
  simp [illegalWordCount, legal]

/-- An illegal word at the head of the port is answered ILLEGAL_COMMAND with itself, and the block stays as it was
(60_exceptions.md R114). -/
theorem step_of_illegal_command (w : Cmd16) (s : State) (rest : List Input) (hw : (decode w).isLegal = false)
    (hp : s.pending = .command w :: rest) :
    step s = .next { s with pending := rest, responses := s.responses ++ [⟨3, w.setWidth 32⟩] } := by
  rw [step_of_command s w rest hp]
  cases hd : decode w with
  | legal i => simp [hd] at hw
  | illegal e => exact runCommand_of_illegal w e _ hd

/-- The `OP` values of one form. -/
def opsOfForm (f : Form) : List Byte := (allMnemonics.filter fun m => m.form = f).map Mnemonic.op

theorem mem_opsOfForm (op : Byte) (f : Form) : op ∈ opsOfForm f ↔ ∃ m : Mnemonic, m.form = f ∧ op = m.op := by
  simp [opsOfForm, mem_allMnemonics, eq_comm]

/-- The three counts of an `OP`, by the lists of the assigned ones. -/
theorem illegalWordCount_eq (op : Byte) :
    illegalWordCount op = if op ∈ opsOfForm .formI then 0 else if op ∈ opsOfForm .formN then 255 else 256 := by
  split_ifs with hI hN
  · obtain ⟨m, hm, rfl⟩ := (mem_opsOfForm op _).1 hI
    exact illegalWordCount_formI m hm
  · obtain ⟨m, hm, rfl⟩ := (mem_opsOfForm op _).1 hN
    exact illegalWordCount_formN m hm
  · refine illegalWordCount_unassigned op fun m hop => ?_
    cases hm : m.form with
    | formN => exact hN ((mem_opsOfForm op _).2 ⟨m, hm, hop⟩)
    | formI => exact hI ((mem_opsOfForm op _).2 ⟨m, hm, hop⟩)

/-- Settles O3: the count of each `OP` is `illegalWordCount_eq`, the totals are sums of those, and an illegal word at
the port is `step_of_illegal_command`. -/
theorem illegalWordsAreCountedAndHaveNoEffect : Obligations.IllegalWordsAreCountedAndHaveNoEffect := by
  unfold Obligations.IllegalWordsAreCountedAndHaveNoEffect
  intro formN formI illegalWords
  have formN_eq : formN = opsOfForm .formN := by decide
  have formI_eq : formI = opsOfForm .formI := by decide
  have count : illegalWords = fun op : Byte =>
      if op ∈ opsOfForm .formI then 0 else if op ∈ opsOfForm .formN then 255 else 256 := funext illegalWordCount_eq
  have disjoint : ∀ op ∈ opsOfForm .formN, op ∉ opsOfForm .formI := by decide
  rw [formN_eq, formI_eq, count]
  refine ⟨fun op hop => ?_, fun op hop => ⟨?_, ?_⟩, fun op hop => if_pos hop, ?_, ?_, ?_, fun w s rest hw hp => ?_⟩
  · rw [List.mem_append, not_or] at hop
    exact (if_neg hop.2).trans (if_neg hop.1)
  · exact (if_neg (disjoint op hop)).trans (if_pos hop)
  · obtain ⟨m, -, rfl⟩ := (mem_opsOfForm op _).1 hop
    rw [decode_commandWord, isLegal_decodeFields_op]
    exact fun _ => rfl
  · decide +kernel
  · decide +kernel
  · decide +kernel
  · exact step_of_illegal_command w s rest hw hp

/-- Settles O4: a word that decodes is its command's word, whose `IMM8` is the operand, and both setters answer their
operand zero-extended. -/
theorem operandIsTheUnsignedLowByte : Obligations.OperandIsTheUnsignedLowByte := by
  refine ⟨fun w i b hw hb => ?_, fun w i _ => Instr.operand_eq_none_iff i, fun s b => ?_⟩
  · obtain rfl := (decode_eq_legal_iff w i).1 hw
    rw [← immField_toNat, immField_encode, hb, Option.getD_some]
  · have hdata : (zext32 b).toNat = b.toNat := zext32_toNat (by decide) b
    exact ⟨_, _, _, _, exec_eq_next _ s, rfl, hdata, exec_eq_next _ s, rfl, hdata⟩

end Sys2Proof
end

section
/-! Errors are responses (30_encoding.md R46, 60_exceptions.md R110). -/

namespace Sys2Proof.Machine

/-- A command whose response is not OK writes nothing, but for `frm.single`, which clears `R24V`. -/
theorem effect_of_error (i : Instr) (b : Block) (h : (effect i b).2.code ≠ 0) :
    (effect i b).1 = b ∨ i = .frmSingle ∧ (effect i b).1 = b.dropReading := by
  cases i with
  | frmDual => exact .inl (frmDual_fst b)
  | frmSingle =>
    rcases frmSingle_cases b with ⟨-, he⟩ | ⟨-, he⟩
    · exact .inr ⟨rfl, congrArg Prod.fst he⟩
    · exact absurd (congrArg (fun r => r.2.code) he) h
  | sext24 =>
    rcases sext24Cmd_cases b with ⟨-, he⟩ | ⟨-, he⟩ <;> exact .inl (congrArg Prod.fst he)
  | crcInit | crcByte | crcRead | crcSetpoly | crcSetinit | crcGetcfg | frmClear | frmPush | frmLen =>
    exact absurd rfl h

/-- The same of any word: an illegal one writes nothing. -/
theorem wordEffect_of_error (w : Cmd16) (b : Block) (h : (wordEffect w b).2.code ≠ 0) :
    (wordEffect w b).1 = b ∨ decode w = .legal .frmSingle ∧ (wordEffect w b).1 = b.dropReading := by
  unfold wordEffect at h ⊢
  cases hd : decode w with
  | legal i =>
    rw [hd] at h
    exact (effect_of_error i b h).imp_right fun ⟨hi, he⟩ => ⟨congrArg Decoded.legal hi, he⟩
  | illegal e => exact .inl rfl

/-- The step of a command at the head of the port. -/
theorem step_of_command_eq_next (s : State) (w : Cmd16) (rest : List Input) (h : s.pending = .command w :: rest) :
    step s = .next (State.answer { s with pending := rest } (wordEffect w s.block).1 (wordEffect w s.block).2) :=
  (step_of_command s w rest h).trans (runCommand_eq_next w _)

/-- No step stops. -/
theorem exists_step_eq_next (s : State) : ∃ t : State, step s = .next t := by
  rcases step_cases s with ⟨-, hs⟩ | ⟨_, _, -, hs⟩ | ⟨_, -, hs⟩ <;> exact ⟨_, hs⟩

/-- Settles O8: no step stops, and the one response of a command is that of `wordEffect`, whose error cases are
`wordEffect_of_error`. -/
theorem errorsAreResponsesAndNeverStop : Obligations.ErrorsAreResponsesAndNeverStop :=
  ⟨exists_step_eq_next, fun s w rest hp =>
    ⟨_, _, step_of_command_eq_next s w rest hp, rfl, rfl, fun herr => wordEffect_of_error w s.block herr⟩⟩

end Sys2Proof.Machine
end

section
/-! Runs of commands and the pseudo-instructions (30_encoding.md R49). -/

namespace Sys2Proof.Machine

/-- The block after the commands `cs`. -/
def blockAfter (cs : List Instr) (b : Block) : Block := cs.foldl (fun b i => (effect i b).1) b

/-- The responses to the commands `cs`, in order. -/
def answers : List Instr → Block → List Response
  | [], _ => []
  | i :: cs, b => (effect i b).2 :: answers cs (effect i b).1

@[simp] theorem blockAfter_nil (b : Block) : blockAfter [] b = b := rfl

@[simp] theorem blockAfter_cons (i : Instr) (cs : List Instr) (b : Block) :
    blockAfter (i :: cs) b = blockAfter cs (effect i b).1 := rfl

@[simp] theorem answers_nil (b : Block) : answers [] b = [] := rfl

@[simp] theorem answers_cons (i : Instr) (cs : List Instr) (b : Block) :
    answers (i :: cs) b = (effect i b).2 :: answers cs (effect i b).1 := rfl

/-- One response for each command (30_encoding.md R46). -/
@[simp] theorem answers_length (cs : List Instr) (b : Block) : (answers cs b).length = cs.length := by
  induction cs generalizing b with
  | nil => rfl
  | cons i cs ih => simp [ih]

@[simp] theorem wordEffect_encode (i : Instr) (b : Block) : wordEffect (encode i) b = effect i b := by
  rw [wordEffect, decode_encode]

/-- Commands at the head of the port are run in order, one step and one response each (20_memory.md R38). -/
theorem runs_commandInputs (cs : List Instr) (rest : List Input) (s : State)
    (h : s.pending = commandInputs cs ++ rest) :
    Runs cs.length s
      { s with block := blockAfter cs s.block, pending := rest, responses := s.responses ++ answers cs s.block } := by
  induction cs generalizing s with
  | nil =>
    rw [answers_nil, List.append_nil, ← show s.pending = rest from h]
    exact run_zero s
  | cons i cs ih =>
    have hstep := step_of_command_eq_next s (encode i) (commandInputs cs ++ rest) h
    rw [wordEffect_encode] at hstep
    refine (run_succ_of_step _ _ _ hstep).trans ((ih _ rfl).trans ?_)
    simp [State.answer]

/-- With nothing issued after them. -/
theorem runs_all_commandInputs (cs : List Instr) (s : State) (h : s.pending = commandInputs cs) :
    Runs cs.length s
      { s with block := blockAfter cs s.block, pending := [], responses := s.responses ++ answers cs s.block } :=
  runs_commandInputs cs [] s (h.trans (List.append_nil _).symm)

/-- After a response that reports `CRC`, the last response to the bytes of a checksum reports the checksum: each
`crc.byte` folds one byte into `CRC` and keeps `POLY`. -/
theorem getLast?_answers_crcByte (bytes : List Byte) (b : Block) :
    ((⟨0, zext32 b.crc⟩ : Response) :: answers (bytes.map .crcByte) b).getLast? =
      some ⟨0, zext32 (crc8 bytes b.poly b.crc)⟩ := by
  induction bytes generalizing b with
  | nil => rfl
  | cons v bytes ih =>
    rw [List.map_cons, answers_cons, List.getLast?_cons_cons, crc8_cons]
    exact ih (b.setCrc (crcByteStep b.crc v b.poly))

/-- The last response to `crc.seq` carries the checksum of the whole sequence, the empty one included. -/
theorem getLast?_answers_crcSeq (bytes : List Byte) (b : Block) :
    (answers (expand (.crcSeq bytes)) b).getLast? = some ⟨0, zext32 (crc8 bytes b.poly b.init)⟩ :=
  getLast?_answers_crcByte bytes (b.setCrc b.init)

/-- Settles O45: the expansions are `expand`'s own equations, a run of one is `runs_all_commandInputs`, and the last
response to `crc.seq` is `getLast?_answers_crcSeq`. -/
theorem pseudoInstructionsExpandInOrder : Obligations.PseudoInstructionsExpandInOrder := by
  refine ⟨fun _ => rfl, fun _ _ => rfl, fun _ => rfl, fun q s hp => ?_, fun bytes s hp => ?_⟩
  · refine ⟨_, runs_all_commandInputs _ s hp, ?_⟩
    simp
  · refine ⟨_, runs_all_commandInputs _ s hp, ?_⟩
    rw [List.getLast?_append, getLast?_answers_crcSeq, Option.some_or]
    rfl

end Sys2Proof.Machine
end

section
/-! The assembler's checks on a line taken apart (30_encoding.md R48). -/

namespace Sys2Proof.Machine

/-- The text of a command passes the checks, and its word is the command's. -/
theorem assembleCommand_toLine (i : Instr) : assembleCommand i.toLine = .ok (encode i) := by
  have hok : i.toLine.problem = none := Option.isNone_iff_eq_none.1 (Instr.wf_eq_true i)
  rw [assembleCommand, hok]
  cases hop : i.operand <;> simp [Instr.toLine, encode, hop]

section
variable (m : Mnemonic) (n : Nat)

theorem assembleCommand_formI (h : m.form = .formI) (hn : n < 256) :
    assembleCommand ⟨m, some n⟩ = .ok (commandWord m.op (BitVec.ofNat 8 n)) := by
  simp [assembleCommand, AsmLine.problem, h, hn]

theorem assembleCommand_formI_out_of_range (h : m.form = .formI) (hn : 256 ≤ n) :
    assembleCommand ⟨m, some n⟩ = .error .operandOutOfRange := by
  simp [assembleCommand, AsmLine.problem, h, Nat.not_lt.2 hn]

theorem assembleCommand_formN_operand (h : m.form = .formN) :
    assembleCommand ⟨m, some n⟩ = .error .operandOnFormN := by
  simp [assembleCommand, AsmLine.problem, h]

theorem assembleCommand_formI_missing (h : m.form = .formI) :
    assembleCommand ⟨m, none⟩ = .error .operandMissing := by
  simp [assembleCommand, AsmLine.problem, h]

end

end Sys2Proof.Machine
end

section
/-! Numbers as text: the digits the assembler reads are those a number is written with. -/

namespace Sys2Proof.Machine

/-- Digits are read from the left, so the value of a first part is where the reading of the rest begins. -/
theorem readDigits_append (base : Nat) (digit? : Char → Option Nat) (acc : Nat) (xs ys : List Char) :
    readDigits base digit? acc (xs ++ ys) =
      (readDigits base digit? acc xs).bind fun v => readDigits base digit? v ys := by
  induction xs generalizing acc with
  | nil => rfl
  | cons c xs ih =>
    rw [List.cons_append, readDigits, readDigits]
    cases digit? c with
    | none => rfl
    | some d => exact ih _

/-- What holds of every digit of a base holds of every character of a number written in it. -/
theorem forall_mem_toDigits {base : Nat} {p : Char → Prop} (hbase : 1 < base) (hp : ∀ d < base, p d.digitChar)
    (n : Nat) :
    ∀ c ∈ Nat.toDigits base n, p c := by
  induction n using Nat.strong_induction_on with
  | _ n ih =>
    rw [Nat.toDigits_eq_if hbase]
    split_ifs with hn
    · exact List.forall_mem_singleton.2 (hp n hn)
    · refine List.forall_mem_append.2 ⟨ih _ (Nat.div_lt_self (by omega) hbase), ?_⟩
      exact List.forall_mem_singleton.2 (hp _ (Nat.mod_lt n (by omega)))

/-- A number written in a base whose digits are read right is read right. -/
theorem readDigits_toDigits {base : Nat} {digit? : Char → Option Nat} (hbase : 1 < base)
    (hdigit : ∀ d < base, digit? d.digitChar = some d) (n : Nat) :
    readDigits base digit? 0 (Nat.toDigits base n) = some n := by
  induction n using Nat.strong_induction_on with
  | _ n ih =>
    rw [Nat.toDigits_eq_if hbase]
    split_ifs with hn
    · simp [readDigits, hdigit n hn]
    · rw [readDigits_append, ih _ (Nat.div_lt_self (by omega) hbase)]
      simp [readDigits, hdigit _ (Nat.mod_lt n (by omega)), Nat.div_add_mod']

theorem decimalDigit?_digitChar : ∀ d < 10, decimalDigit? d.digitChar = some d := by decide

theorem hexDigit?_hexChar : ∀ d < 16, hexDigit? (hexChar d) = some d := by decide

/-- Text without an `x` is read as decimal. -/
theorem readOperand_decimal (cs : List Char) (hne : cs ≠ []) (hx : 'x' ∉ cs) :
    readOperand cs = readDigits 10 decimalDigit? 0 cs := by
  unfold readOperand
  split
  · exact absurd rfl hne
  · simp at hx
  · simp at hx
  · rfl

/-- A number written in decimal is read back (30_encoding.md R48). -/
theorem readOperand_toDigits (n : Nat) : readOperand (Nat.toDigits 10 n) = some n := by
  have digits : ∀ c ∈ Nat.toDigits 10 n, c ≠ 'x' := forall_mem_toDigits (by decide) (by decide) n
  rw [readOperand_decimal _ Nat.toDigits_ne_nil fun hx => digits _ hx rfl]
  exact readDigits_toDigits (by decide) decimalDigit?_digitChar n

/-- A byte written as two hex digits is read back (30_encoding.md R48). -/
theorem readOperand_byteText (b : Byte) : readOperand (byteText b) = some b.toNat := by
  have high := hexDigit?_hexChar (b.toNat / 16) (by have := b.isLt; omega)
  have low := hexDigit?_hexChar (b.toNat % 16) (Nat.mod_lt _ (by decide))
  simp [byteText, readOperand, readDigits, high, low, Nat.div_add_mod']

end Sys2Proof.Machine
end

section
/-! The parts of a line of text: words that hold no separator, and what the assembler makes of a mnemonic followed by
none or one of them (30_encoding.md R48). -/

namespace Sys2Proof.Machine

/-- A character that separates nothing and begins no comment. -/
def isTokenChar (c : Char) : Bool := !isBlank c && c != ';' && c != ','

/-- A part of a line: at least one character, none of them a separator. -/
abbrev IsToken (cs : List Char) : Prop := cs ≠ [] ∧ ∀ c ∈ cs, isTokenChar c = true

theorem isToken_mnemonicText (m : Mnemonic) : IsToken (mnemonicText m) := by
  have chars : (mnemonicText m).all isTokenChar = true := by cases m <;> decide
  exact ⟨by cases m <;> decide, List.all_eq_true.1 chars⟩

theorem isToken_toDigits (n : Nat) : IsToken (Nat.toDigits 10 n) :=
  ⟨Nat.toDigits_ne_nil, forall_mem_toDigits (by decide) (by decide) n⟩

theorem isToken_byteText (b : Byte) : IsToken (byteText b) := by
  have hex : ∀ d < 16, isTokenChar (hexChar d) = true := by decide
  have high := hex (b.toNat / 16) (by have := b.isLt; omega)
  have low := hex (b.toNat % 16) (Nat.mod_lt _ (by decide))
  refine ⟨nofun, ?_⟩
  have zero_x : isTokenChar '0' = true ∧ isTokenChar 'x' = true := by decide
  simp [byteText, zero_x, high, low]

section
variable {t u : List Char}

theorem IsToken.not_isBlank (h : IsToken t) : ∀ c ∈ t, isBlank c = false := fun c hc => by
  have hchar := h.2 c hc
  simp only [isTokenChar, Bool.and_eq_true, Bool.not_eq_true'] at hchar
  obtain ⟨⟨hblank, -⟩, -⟩ := hchar
  exact hblank

theorem IsToken.semicolon_not_mem (h : IsToken t) : ';' ∉ t := fun hc => absurd (h.2 _ hc) (by decide)

theorem IsToken.comma_not_mem (h : IsToken t) : ',' ∉ t := fun hc => absurd (h.2 _ hc) (by decide)

theorem IsToken.reverse (h : IsToken t) : IsToken t.reverse :=
  ⟨by simpa using h.1, fun c hc => h.2 c (List.mem_reverse.1 hc)⟩

/-- Text that begins with a token has no blanks to drop at its beginning. -/
theorem IsToken.dropWhile_isBlank_append (h : IsToken t) (rest : List Char) :
    (t ++ rest).dropWhile isBlank = t ++ rest := by
  cases t with
  | nil => exact absurd rfl h.1
  | cons c t =>
    have hc : isBlank c = false := h.not_isBlank c List.mem_cons_self
    simp [hc]

theorem forall_mem_bne_semicolon {line : List Char} (h : ';' ∉ line) : ∀ c ∈ line, (c != ';') = true :=
  fun _ hc => bne_iff_ne.2 (ne_of_mem_of_not_mem hc h)

/-- A line without a comment is all text. -/
theorem stripComment_eq_self (line : List Char) (h : ';' ∉ line) : stripComment line = line :=
  List.takeWhile_eq_self_iff.2 (forall_mem_bne_semicolon h)

/-- A comment is not part of the text. -/
theorem stripComment_append_comment (line comment : List Char) (h : ';' ∉ line) :
    stripComment (line ++ ';' :: comment) = line := by
  rw [stripComment, List.takeWhile_append_of_pos (forall_mem_bne_semicolon h)]
  simp

theorem trimBlanks_eq_self (cs : List Char) (h : cs.dropWhile isBlank = cs)
    (h' : cs.reverse.dropWhile isBlank = cs.reverse) : trimBlanks cs = cs := by
  rw [trimBlanks, h, h', List.reverse_reverse]

theorem trimBlanks_space_cons (cs : List Char) : trimBlanks (' ' :: cs) = trimBlanks cs := rfl

theorem IsToken.trimBlanks_eq (h : IsToken t) : trimBlanks t = t := by
  refine trimBlanks_eq_self t ?_ ?_
  · simpa using h.dropWhile_isBlank_append []
  · simpa using h.reverse.dropWhile_isBlank_append []

/-- Text between two tokens is kept as it is. -/
theorem IsToken.trimBlanks_append (ht : IsToken t) (hu : IsToken u) (mid : List Char) :
    trimBlanks (t ++ (mid ++ u)) = t ++ (mid ++ u) := by
  refine trimBlanks_eq_self _ (ht.dropWhile_isBlank_append _) ?_
  simpa using hu.reverse.dropWhile_isBlank_append (mid.reverse ++ t.reverse)

theorem splitCommas_eq_singleton (cs : List Char) (h : ',' ∉ cs) : splitCommas cs = [cs] := by
  induction cs with
  | nil => rfl
  | cons c cs ih =>
    obtain ⟨hc, hcs⟩ := not_or.1 (mt List.mem_cons.2 h)
    simp [splitCommas, ih hcs, Ne.symm hc]

/-- One operand after a space. -/
theorem IsToken.readOperands_space_cons (h : IsToken t) {n : Nat} (hn : readOperand t = some n) :
    readOperands (' ' :: t) = some [n] := by
  unfold readOperands
  rw [trimBlanks_space_cons, h.trimBlanks_eq]
  split
  · exact absurd rfl h.1
  · simp [splitCommas_eq_singleton _ h.comma_not_mem, h.trimBlanks_eq, hn]

/-- A line whose text begins with a token is read by its first word. -/
theorem IsToken.assembleLine_eq (h : IsToken t) {line rest : List Char}
    (htext : trimBlanks (stripComment line) = t ++ rest) (hrest : ∀ c ∈ rest.head?, isBlank c = true) :
    assembleLine line = assembleText t rest := by
  have hword : ∀ c ∈ t, (!isBlank c) = true := fun _ hc => by rw [h.not_isBlank _ hc, Bool.not_false]
  have hspan : rest.takeWhile (fun c => !isBlank c) = [] ∧ rest.dropWhile (fun c => !isBlank c) = rest := by
    cases rest with
    | nil => exact ⟨rfl, rfl⟩
    | cons c rest => simp [hrest c rfl]
  unfold assembleLine
  rw [htext]
  split
  · rename_i hnil
    exact absurd (List.append_eq_nil_iff.1 hnil).1 h.1
  · rw [List.takeWhile_append_of_pos hword, List.dropWhile_append_of_pos hword, hspan.1, hspan.2, List.append_nil]

end

theorem find?_mnemonicText (m : Mnemonic) :
    allMnemonics.find? (fun m' => mnemonicText m' == mnemonicText m) = some m := by
  cases m <;> decide

/-- A mnemonic's text is read as the mnemonic. -/
theorem assembleText_mnemonicText (m : Mnemonic) (rest : List Char) (ns : List Nat) (h : readOperands rest = some ns) :
    assembleText (mnemonicText m) rest = assembleMnemonic m ns := by
  rw [assembleText, find?_mnemonicText, h]

theorem assembleLine_mnemonicText (m : Mnemonic) : assembleLine (mnemonicText m) = assembleMnemonic m [] := by
  have hm := isToken_mnemonicText m
  have htext : trimBlanks (stripComment (mnemonicText m)) = mnemonicText m ++ [] := by
    rw [stripComment_eq_self _ hm.semicolon_not_mem, hm.trimBlanks_eq, List.append_nil]
  rw [hm.assembleLine_eq htext nofun, assembleText_mnemonicText m [] [] rfl]

theorem assembleLine_mnemonicText_operand (m : Mnemonic) {t : List Char} {n : Nat} (ht : IsToken t)
    (hn : readOperand t = some n) : assembleLine (mnemonicText m ++ ' ' :: t) = assembleMnemonic m [n] := by
  have hm := isToken_mnemonicText m
  have hcomment : ';' ∉ mnemonicText m ++ ' ' :: t := by
    simp [hm.semicolon_not_mem, ht.semicolon_not_mem]
  have htext : trimBlanks (stripComment (mnemonicText m ++ ' ' :: t)) = mnemonicText m ++ ' ' :: t := by
    rw [stripComment_eq_self _ hcomment]
    exact hm.trimBlanks_append ht [' ']
  rw [hm.assembleLine_eq htext (by simp [isBlank]), assembleText_mnemonicText m _ _ (ht.readOperands_space_cons hn)]

/-- An operand in decimal. -/
theorem assembleLine_decimal (m : Mnemonic) (n : Nat) :
    assembleLine (mnemonicText m ++ ' ' :: Nat.toDigits 10 n) = (assembleCommand ⟨m, some n⟩).map fun w => [w] :=
  assembleLine_mnemonicText_operand m (isToken_toDigits n) (readOperand_toDigits n)

/-- A command's text is its source line. -/
theorem assembleLine_renderLine (i : Instr) :
    assembleLine (renderLine i) = (assembleCommand i.toLine).map fun w => [w] := by
  unfold renderLine Instr.toLine
  cases i.operand with
  | none => exact assembleLine_mnemonicText i.mnemonic
  | some b => exact assembleLine_mnemonicText_operand i.mnemonic (isToken_byteText b) (readOperand_byteText b)

theorem assembleLine_append_comment (line comment : List Char) (h : ';' ∉ line) :
    assembleLine (line ++ ';' :: comment) = assembleLine line := by
  unfold assembleLine
  rw [stripComment_append_comment line comment h, stripComment_eq_self line h]

/-- Settles O44: a line of one command is assembled as its mnemonic and operand taken apart, and those by the cases of
`assembleCommand`. -/
theorem assemblerGivesTheWordOrRefuses : Obligations.AssemblerGivesTheWordOrRefuses := by
  refine ⟨fun i => ?_, fun m n hm hn => ?_, assembleLine_append_comment, fun m n hm hn => ?_, fun m n hm => ?_,
    fun m hm => ?_, assembleLine_renderLine (.crcByte 0xBE), assembleLine_decimal .frmPush 7,
    assembleLine_renderLine .frmDual⟩
  · rw [assembleLine_renderLine, assembleCommand_toLine, Except.map]
  · rw [assembleLine_decimal, assembleCommand_formI m n hm hn, Except.map]
  · have hbad := assembleCommand_formI_out_of_range m n hm hn
    exact ⟨hbad, by rw [assembleLine_decimal, hbad, Except.map]⟩
  · have hbad := assembleCommand_formN_operand m n hm
    exact ⟨hbad, by rw [assembleLine_decimal, hbad, Except.map]⟩
  · have hbad := assembleCommand_formI_missing m hm
    exact ⟨hbad, by rw [assembleLine_mnemonicText, assembleMnemonic, hbad, Except.map]⟩

end Sys2Proof.Machine
end

section
/-! The words of one operation (30_encoding.md R42 to R44), by its form. -/

namespace Sys2Proof.Machine

/-- The words of a form-N operation: `IMM8 = 0` is its command, every other one is illegal. -/
theorem formNWords_op (m : Mnemonic) (h : m.form = .formN) : FormNWords m.op (m.command 0) := by
  refine ⟨?_, fun imm s rest himm hp => step_of_illegal_command _ s rest ?_ hp⟩
  · rw [decode_commandWord, decodeFields_op, if_neg fun hbad => hbad.2 rfl]
  · rw [decode_commandWord, decodeFields_op, if_pos ⟨h, himm⟩, Decoded.isLegal_illegal]

/-- The words of a form-I operation: each is its command, with `IMM8` as operand. -/
theorem formIWords_op (m : Mnemonic) (h : m.form = .formI) : FormIWords m.op fun imm => m.command imm := by
  intro imm
  rw [decode_commandWord, decodeFields_op, if_neg (by simp [h])]

end Sys2Proof.Machine
end

section
/-! The CRC functions (40_crc.md R60 to R63): the bit step as a number, the byte step as an iterate, the checksum as a
fold from the left. -/

namespace Sys2Proof.Machine

/-! ### One bit step -/

/-- A left shift by one, truncated to 8 bits, is the double modulo 256. -/
theorem shiftLeft_one_eq_ofNat (r : Byte) : r <<< 1 = BitVec.ofNat 8 (2 * r.toNat % 256) := by
  apply BitVec.eq_of_toNat_eq
  rw [BitVec.toNat_shiftLeft, BitVec.toNat_ofNat, Nat.shiftLeft_eq]
  omega

/-- Bit 7 is set exactly from 128 on. -/
theorem getLsbD_seven_eq (r : Byte) : r.getLsbD 7 = decide (128 ≤ r.toNat) :=
  (BitVec.msb_eq_getLsbD_last r).symm.trans (BitVec.msb_eq_decide r)

theorem crcShift1_of_ge (r p : Byte) (h : 128 ≤ r.toNat) :
    crcShift1 r p = BitVec.ofNat 8 (2 * r.toNat % 256) ^^^ p := by
  rw [crcShift1, getLsbD_seven_eq, if_pos (decide_eq_true h), shiftLeft_one_eq_ofNat]

theorem crcShift1_toNat_of_lt (r p : Byte) (h : r.toNat < 128) : (crcShift1 r p).toNat = 2 * r.toNat := by
  rw [crcShift1, getLsbD_seven_eq, if_neg (by simpa using h), shiftLeft_one_eq_ofNat, BitVec.toNat_ofNat]
  omega

/-- The zero register stays zero, whatever the polynomial is (40_crc.md R60). -/
@[simp] theorem crcShift1_zero_left (p : Byte) : crcShift1 0#8 p = 0#8 := rfl

/-- With the zero polynomial a bit step is a shift. -/
theorem crcShift1_zero_right (r : Byte) : crcShift1 r 0 = r <<< 1 := by
  unfold crcShift1
  split
  · exact BitVec.xor_zero
  · rfl

/-- Settles O13: bit 7 splits the bytes at 128, and a shift is the double modulo 256. -/
theorem bitStepShiftsAndXorsOnTheTopBit : Obligations.BitStepShiftsAndXorsOnTheTopBit :=
  ⟨crcShift1_of_ge, crcShift1_toNat_of_lt, by decide, by decide, by decide, crcShift1_zero_left⟩

/-! ### Bytes and sequences -/

theorem crcSteps_eq_iterate (k : Nat) (t p : Byte) : crcSteps k t p = (fun t => crcShift1 t p)^[k] t := by
  induction k generalizing t with
  | zero => rfl
  | succ k ih => rw [crcSteps_succ, ih, Function.iterate_succ_apply]

theorem crcByteStep_eq_iterate (r b p : Byte) : crcByteStep r b p = (fun t => crcShift1 t p)^[8] (r ^^^ b) :=
  crcSteps_eq_iterate 8 (r ^^^ b) p

theorem crcSteps_zero_left (k : Nat) (p : Byte) : crcSteps k 0#8 p = 0#8 := by
  induction k with
  | zero => rfl
  | succ k ih => rw [crcSteps_succ, crcShift1_zero_left, ih]

/-- With the zero polynomial the bit steps shift the register out. -/
theorem crcSteps_zero_right (k : Nat) (t : Byte) : crcSteps k t 0 = t <<< k := by
  induction k generalizing t with
  | zero => rw [crcSteps_zero, BitVec.shiftLeft_zero]
  | succ k ih => rw [crcSteps_succ, crcShift1_zero_right, ih, Nat.add_comm k 1, BitVec.shiftLeft_add]

/-- A byte equal to the register leaves zero (40_crc.md R66). -/
theorem crcByteStep_self (r p : Byte) : crcByteStep r r p = 0 := by
  rw [crcByteStep, BitVec.xor_self]
  exact crcSteps_zero_left 8 p

/-- The zero polynomial leaves zero (40_crc.md R66). -/
theorem crcByteStep_zero_poly (r b : Byte) : crcByteStep r b 0 = 0 := by
  rw [crcByteStep, crcSteps_zero_right]
  exact BitVec.shiftLeft_eq_zero (Nat.le_refl 8)

/-- A byte appended is one more byte step. -/
theorem crc8_concat (d : List Byte) (b p i : Byte) : crc8 (d ++ [b]) p i = crcByteStep (crc8 d p i) b p :=
  List.foldl_concat _ i b d

/-- The parameters of the frame checks are the constants of 40_crc.md R63. -/
theorem frameChecksum_eq_crc8 (d : List Byte) : frameChecksum d = crc8 d 0x31 0xFF := rfl

/-- Settles O14: the byte step is an iterate, and the checksum is a fold from the left. -/
theorem checksumFoldsEightStepsPerByte : Obligations.ChecksumFoldsEightStepsPerByte :=
  ⟨crcByteStep_eq_iterate, crc8_nil, frameChecksum_eq_crc8, crc8_concat⟩

end Sys2Proof.Machine
end

section
/-! The commands of the CRC engine (40_crc.md R65 to R70): each completes, so each is its block and its data. -/

namespace Sys2Proof.Machine

/-- A command that completes with the block `b` and the data `d` writes just that block and answers `d` under OK. -/
theorem exec_of_effect_eq_finish (i : Instr) (s : State) (b : Block) (d : Word32)
    (h : effect i s.block = b.finish d) :
    exec i s = .next { s with block := b, responses := s.responses ++ [⟨0, d⟩] } := by
  rw [exec_eq_next, h, Block.finish_fst, Block.finish_snd, State.answer]

/-- A command that completes without a write changes nothing but the record of responses. -/
theorem exec_of_effect_eq_finish_self (i : Instr) (s : State) (d : Word32)
    (h : effect i s.block = s.block.finish d) :
    exec i s = .next { s with responses := s.responses ++ [⟨0, d⟩] } :=
  exec_of_effect_eq_finish i s s.block d h

/-- `crc.byte` by the value of its byte step. -/
theorem exec_crcByte (s : State) (b v : Byte) (h : crcByteStep s.block.crc b s.block.poly = v) :
    exec (.crcByte b) s = .next { s with block := { s.block with crc := v },
                                         responses := s.responses ++ [⟨0, zext32 v⟩] } :=
  exec_of_effect_eq_finish _ s (s.block.setCrc v) _ (h ▸ rfl)

/-- Settles O16: `OP` 0x01 is of form N, and `crc.init` completes with `CRC <- INIT`. -/
theorem crcInitLoadsTheInitialValue : Obligations.CrcInitLoadsTheInitialValue :=
  ⟨formNWords_op .crcInit rfl, fun s => exec_of_effect_eq_finish _ s (s.block.setCrc s.block.init) _ rfl⟩

/-- Settles O17: `OP` 0x02 is of form I, and each clause is `exec_crcByte` at the value of the byte step: the iterate,
zero for the two corner cases, and the two computed examples. -/
theorem crcByteTakesOneByteIn : Obligations.CrcByteTakesOneByteIn := by
  refine ⟨formIWords_op .crcByte rfl, fun s b => ⟨_, rfl, exec_crcByte s b _ (crcByteStep_eq_iterate _ _ _)⟩,
    fun s => exec_crcByte s _ 0 (crcByteStep_self _ _), fun s b hpoly => exec_crcByte s b 0 ?_,
    fun s hpoly => ⟨fun hcrc => exec_crcByte s _ 0x0C ?_, fun hcrc => exec_crcByte s _ 0x92 ?_⟩⟩
  · rw [hpoly, crcByteStep_zero_poly]
  · rw [hpoly, hcrc]
    decide
  · rw [hpoly, hcrc]
    decide

/-- Settles O18: `OP` 0x03 is of form N, and `crc.read` completes without a write. -/
theorem crcReadReturnsTheRegister : Obligations.CrcReadReturnsTheRegister :=
  ⟨formNWords_op .crcRead rfl, fun s => exec_of_effect_eq_finish_self _ s _ rfl⟩

/-- Settles O19: `OP` 0x04 is of form I, and `crc.setpoly` completes with `POLY <- IMM8`. -/
theorem crcSetpolyWritesThePolynomial : Obligations.CrcSetpolyWritesThePolynomial :=
  ⟨formIWords_op .crcSetpoly rfl, fun s p => exec_of_effect_eq_finish _ s (s.block.setPoly p) _ rfl⟩

/-- Settles O20: `OP` 0x05 is of form I, and `crc.setinit` completes with `INIT <- IMM8`. -/
theorem crcSetinitWritesTheInitialValue : Obligations.CrcSetinitWritesTheInitialValue :=
  ⟨formIWords_op .crcSetinit rfl, fun s v => exec_of_effect_eq_finish _ s (s.block.setInit v) _ rfl⟩

/-! ### The configuration word (40_crc.md R70) -/

theorem packConfig_init (init poly : Byte) : (packConfig init poly).extractLsb' 8 8 = init := by
  rw [packConfig, zext32, BitVec.extractLsb'_setWidth_of_le (by decide), BitVec.extractLsb'_append_eq_left]

theorem packConfig_poly (init poly : Byte) : (packConfig init poly).extractLsb' 0 8 = poly := by
  rw [packConfig, zext32, BitVec.extractLsb'_setWidth_of_le (by decide), BitVec.extractLsb'_append_eq_right]

/-- The two parameters take 16 bits, so the bits above are 0. -/
theorem packConfig_upper (init poly : Byte) : (packConfig init poly).extractLsb' 16 16 = 0 := by
  have hlt : (packConfig init poly).toNat < 2 ^ 16 := by
    rw [packConfig, zext32_toNat (by decide)]
    exact (init ++ poly).isLt
  apply BitVec.eq_of_toNat_eq
  rw [BitVec.extractLsb'_toNat, Nat.shiftRight_eq_div_pow, Nat.div_eq_of_lt hlt]
  rfl

/-- Settles O21: `OP` 0x06 is of form N, and `crc.getcfg` completes with the configuration word and no write. -/
theorem crcGetcfgReturnsBothParameters : Obligations.CrcGetcfgReturnsBothParameters :=
  ⟨formNWords_op .crcGetcfg rfl, fun s => ⟨_, exec_of_effect_eq_finish_self _ s _ rfl,
    packConfig_init _ _, packConfig_poly _ _, packConfig_upper _ _⟩⟩

end Sys2Proof.Machine
end

section
/-! The frame checks and the CRC configuration (40_crc.md R63). -/

namespace Sys2Proof.Machine

/-- With any other count than six `frm.dual` reports the count (41_frame.md R89). -/
theorem frmDual_snd_of_length_ne (b : Block) (h : b.flen.toNat ≠ 6) : (frmDual b).2 = ⟨1, zext32 b.flen⟩ := by
  rw [frmDual, Config.dualLength, if_pos h]
  rfl

/-- The answer of `frm.dual` is a function of the frame buffer and the count: no other register enters. -/
theorem frmDual_snd_congr (a b : Block) (hfb : a.fb = b.fb) (hflen : a.flen = b.flen) :
    (frmDual a).2 = (frmDual b).2 := by
  by_cases hb : b.flen.toNat = 6
  · rw [frmDual_snd_of_six b hb, frmDual_snd_of_six a (hflen ▸ hb), hfb]
  · rw [frmDual_snd_of_length_ne b hb, frmDual_snd_of_length_ne a (hflen ▸ hb), hflen]

/-- Settles O35: the parameters are constants, and blocks that differ in `CRC`, `POLY` and `INIT` have one buffer and
one count, so `frmDual_snd_congr` gives one answer. -/
theorem frameChecksIgnoreTheCrcConfiguration : Obligations.FrameChecksIgnoreTheCrcConfiguration := by
  refine ⟨frameChecksum_eq_crc8, fun s c p i => ?_⟩
  have same : (frmDual { s.block with crc := c, poly := p, init := i }).2 = (frmDual s.block).2 :=
    frmDual_snd_congr _ _ rfl rfl
  exact ⟨_, _, (frmDual s.block).2, exec_eq_next .frmDual s, rfl, exec_eq_next .frmDual _,
    congrArg (fun r => s.responses ++ [r]) same⟩

end Sys2Proof.Machine
end

section
/-! The readings as numbers (41_frame.md R80 to R82): big-endian assembly and the signed-24-bit correction. -/

namespace Sys2Proof.Machine

/-! ### Big-endian assembly -/

/-- A byte put below a word counts its bits from 256 on. -/
theorem append_byte_toNat {n : Nat} (x : BitVec n) (b : Byte) : (x ++ b).toNat = x.toNat * 256 + b.toNat := by
  rw [BitVec.toNat_append, ← Nat.shiftLeft_add_eq_or_of_lt b.isLt, Nat.shiftLeft_eq]

theorem be16_toNat (h l : Byte) : (be16 h l).toNat = h.toNat * 256 + l.toNat := by
  rw [be16_eq_append, append_byte_toNat]

theorem be24_toNat (b0 b1 b2 : Byte) : (be24 b0 b1 b2).toNat = b0.toNat * 65536 + b1.toNat * 256 + b2.toNat := by
  rw [be24_eq_append, append_byte_toNat, append_byte_toNat]
  omega

/-- Settles O24: a reading is its bytes side by side, and each byte appended multiplies by 256. -/
theorem readingsAreBigEndian : Obligations.ReadingsAreBigEndian := ⟨be16_toNat, be24_toNat⟩

/-! ### The signed correction -/

/-- The correction is the two's-complement value of the 24 bits. -/
theorem sext24_eq_toInt (u : Reading24) : sext24 u = u.toInt := by
  rw [sext24, BitVec.toInt_eq_toNat_cond]
  by_cases h : 2 ^ 23 ≤ u.toNat
  · rw [if_pos h, if_neg (by omega)]
    rfl
  · rw [if_neg h, if_pos (by omega)]

/-- The 32-bit pattern reads as the corrected value. -/
theorem sext32_toInt_eq_sext24 (u : Reading24) : (sext32 u).toInt = sext24 u := by
  rw [sext32_toInt, sext24_eq_toInt]

/-- The mask of 41_frame.md R82 is the upper byte. -/
theorem getLsbD_upper_byte_mask : ∀ i < 32, (0xFF000000 : Word32).getLsbD i = decide (24 ≤ i) := by decide

/-- The pattern copies the low 24 bits and fills the upper byte from bit 23. -/
theorem sext32_eq_ite (u : Reading24) :
    sext32 u = if u.getLsbD 23 then u.setWidth 32 ||| 0xFF000000 else u.setWidth 32 := by
  have hmsb : u.msb = u.getLsbD 23 := BitVec.msb_eq_getLsbD_last u
  split_ifs with h
  · apply BitVec.eq_of_getLsbD_eq
    intro i hi
    rw [sext32, BitVec.getLsbD_signExtend, BitVec.getLsbD_or, BitVec.getLsbD_setWidth, getLsbD_upper_byte_mask i hi,
      hmsb, h]
    by_cases hlow : i < 24
    · simp [hi, hlow]
    · simp [hi, hlow, Nat.not_lt.1 hlow]
  · exact BitVec.signExtend_eq_setWidth_of_msb_false (hmsb.trans (Bool.eq_false_of_not_eq_true h))

theorem sext24_injective (u v : Reading24) (h : sext24 u = sext24 v) : u = v := by
  rw [sext24_eq_toInt, sext24_eq_toInt] at h
  exact BitVec.eq_of_toInt_eq h

/-- The values of the correction are the signed 24-bit integers, all of them. -/
theorem mem_range_sext24_iff (z : Int) : -(2 ^ 23) ≤ z ∧ z < 2 ^ 23 ↔ ∃ u : Reading24, sext24 u = z := by
  constructor
  · rintro ⟨hlow, hhigh⟩
    exact ⟨BitVec.ofInt 24 z, (sext24_eq_toInt _).trans (BitVec.toInt_ofInt_eq_self (by decide) hlow hhigh)⟩
  · rintro ⟨u, rfl⟩
    rw [sext24_eq_toInt]
    exact ⟨BitVec.le_toInt u, BitVec.toInt_lt⟩

/-- Settles O25: the two branches are the definition's, the pattern and the range are those of two's complement, and the
corner values are computed. -/
theorem signedCorrectionIsTwosComplement : Obligations.SignedCorrectionIsTwosComplement :=
  ⟨fun _ h => if_pos h, fun _ h => if_neg (Nat.not_le.2 h), sext32_toInt_eq_sext24, sext32_eq_ite, sext24_injective,
    mem_range_sext24_iff, by decide⟩

end Sys2Proof.Machine
end

section
/-! The checks of a dual frame and the two parsers (41_frame.md R83, R84). -/

namespace Sys2Proof.Machine

section
variable {f0 f1 f2 f3 f4 f5 : Byte}

theorem checkDual_of_mismatch_A (hA : frameChecksum [f0, f1] ≠ f2) :
    checkDual f0 f1 f2 f3 f4 f5 = .checksumMismatch 0 f2 (frameChecksum [f0, f1]) := if_pos hA

/-- Checksum B is looked at only after checksum A is right. -/
theorem checkDual_of_mismatch_B (hA : frameChecksum [f0, f1] = f2) (hB : frameChecksum [f3, f4] ≠ f5) :
    checkDual f0 f1 f2 f3 f4 f5 = .checksumMismatch 1 f5 (frameChecksum [f3, f4]) :=
  (if_neg (not_not.2 hA)).trans (if_pos hB)

theorem checkDual_of_match (hA : frameChecksum [f0, f1] = f2) (hB : frameChecksum [f3, f4] = f5) :
    checkDual f0 f1 f2 f3 f4 f5 = .ok (be16 f0 f1) (be16 f3 f4) :=
  (if_neg (not_not.2 hA)).trans (if_neg (not_not.2 hB))

end

/-- Settles O26: a frame of six bytes is decided by the cases of `checkDual`, and the lengths by those of the parsers. -/
theorem parsersCheckLengthThenAThenB : Obligations.ParsersCheckLengthThenAThenB :=
  ⟨parseDual_of_length_ne,
    fun _ _ _ _ _ _ => ⟨checkDual_of_mismatch_A, checkDual_of_mismatch_B, checkDual_of_match⟩,
    parseSingle_of_length_ne, parseSingle_three⟩

end Sys2Proof.Machine
end

section
/-! The commands of the frame parser (41_frame.md R86 to R91). -/

namespace Sys2Proof.Machine

/-- A command by its effect on the block and its response, errors included. -/
theorem exec_of_effect_eq (i : Instr) (s : State) (b : Block) (r : Response) (h : effect i s.block = (b, r)) :
    exec i s = .next { s with block := b, responses := s.responses ++ [r] } := by
  rw [exec_eq_next, h, State.answer]

/-- Settles O29: `OP` 0x10 is of form N, and `frm.clear` completes with `FLEN <- 0`. -/
theorem frmClearStartsANewFrame : Obligations.FrmClearStartsANewFrame :=
  ⟨formNWords_op .frmClear rfl, fun s => exec_of_effect_eq_finish _ s s.block.clearFrame 0 rfl⟩

/-- Zero-extended data is written from its number. -/
theorem zext32_eq_ofNat {n : Nat} (v : BitVec n) : zext32 v = BitVec.ofNat 32 v.toNat := (BitVec.ofNat_toNat 32 v).symm

/-- The count a push answers. -/
theorem zext32_countPush (n : BitVec 3) : zext32 (countPush n) = BitVec.ofNat 32 (min (n.toNat + 1) 7) := by
  rw [zext32_eq_ofNat, countPush_toNat]

/-- Settles O30: `OP` 0x11 is of form I, `frm.push` completes with its two writes, and the entries of the buffer after it
are those of `storeFrameByte_getElem`. -/
theorem frmPushStoresAndCounts : Obligations.FrmPushStoresAndCounts := by
  refine ⟨formIWords_op .frmPush rfl, fun s b => ⟨storeFrameByte s.block.fb s.block.flen b, ?_, fun k => ?_⟩⟩
  · rw [← zext32_countPush]
    exact exec_of_effect_eq_finish _ s (s.block.pushByte b) _ rfl
  · exact storeFrameByte_getElem s.block.fb s.block.flen b k.val k.isLt

/-- Settles O31: `OP` 0x12 is of form N, and `frm.len` completes without a write. -/
theorem frmLenReturnsTheCount : Obligations.FrmLenReturnsTheCount := by
  refine ⟨formNWords_op .frmLen rfl, fun s => ?_⟩
  rw [← zext32_eq_ofNat]
  exact exec_of_effect_eq_finish_self _ s _ rfl

/-- `frm.dual` changes nothing but the record of responses. -/
theorem exec_frmDual (s : State) :
    exec .frmDual s = .next { s with responses := s.responses ++ [(frmDual s.block).2] } :=
  exec_of_effect_eq _ s s.block _ (Prod.ext (frmDual_fst s.block) rfl)

/-- Settles O32: `OP` 0x13 is of form N, `frm.dual` writes nothing, its answer to six bytes is the encoded result of
their checks, and the fields of each packing are read off. -/
theorem frmDualChecksAndReturnsBothReadings : Obligations.FrmDualChecksAndReturnsBothReadings := by
  refine ⟨formNWords_op .frmDual rfl, fun s => ⟨_, exec_frmDual s, fun hlen => ?_, fun hlen hA => ?_,
    fun hlen hA hB => ?_, fun hlen hA hB => ?_⟩⟩
  · rw [frmDual_snd_of_length_ne s.block hlen, zext32_eq_ofNat]
  · rw [frmDual_snd_of_six s.block hlen, checkDual_of_mismatch_A hA]
    exact ⟨rfl, packMismatch_received _ _ _, packMismatch_computed _ _ _, packMismatch_index _ _ _⟩
  · rw [frmDual_snd_of_six s.block hlen, checkDual_of_mismatch_B hA hB]
    exact ⟨rfl, packMismatch_received _ _ _, packMismatch_computed _ _ _, packMismatch_index _ _ _⟩
  · rw [frmDual_snd_of_six s.block hlen, checkDual_of_match hA hB]
    exact ⟨rfl, (congrArg BitVec.toNat (packDual_upper _ _)).trans (be16_toNat _ _),
      (congrArg BitVec.toNat (packDual_lower _ _)).trans (be16_toNat _ _)⟩

/-- With three bytes `frm.single` latches their reading and returns it. -/
theorem frmSingle_of_three (b : Block) (h : b.flen.toNat = 3) :
    frmSingle b =
      (b.latchReading (be24 b.fb[0] b.fb[1] b.fb[2]), ⟨0, zext32 (be24 b.fb[0] b.fb[1] b.fb[2])⟩) :=
  ((frmSingle_cases b).resolve_left fun ⟨hne, _⟩ => hne h).2

/-- With any other count `frm.single` clears the flag and reports the count. -/
theorem frmSingle_of_length_ne (b : Block) (h : b.flen.toNat ≠ 3) :
    frmSingle b = (b.dropReading, ⟨1, zext32 b.flen⟩) :=
  ((frmSingle_cases b).resolve_right fun ⟨hthree, _⟩ => h hthree).2

/-- Settles O33: `OP` 0x14 is of form N, and the two clauses are the two cases of `frm.single`. -/
theorem frmSingleLatchesOrClears : Obligations.FrmSingleLatchesOrClears := by
  refine ⟨formNWords_op .frmSingle rfl, fun s hlen => ⟨_, be24_toNat _ _ _, ?_⟩, fun s hlen => ?_⟩
  · exact exec_of_effect_eq _ s _ _ (frmSingle_of_three s.block hlen)
  · rw [← zext32_eq_ofNat]
    exact exec_of_effect_eq _ s _ _ (frmSingle_of_length_ne s.block hlen)

/-- With a latched reading `sext24` answers its pattern. -/
theorem sext24Cmd_of_latched (b : Block) (h : b.r24v = true) : sext24Cmd b = (b, ⟨0, sext32 b.r24⟩) :=
  ((sext24Cmd_cases b).resolve_left fun ⟨hclear, _⟩ => Bool.false_ne_true (hclear.symm.trans h)).2

/-- With no latched reading `sext24` answers NO_VALUE. -/
theorem sext24Cmd_of_not_latched (b : Block) (h : b.r24v = false) : sext24Cmd b = (b, ⟨4, 0⟩) :=
  ((sext24Cmd_cases b).resolve_right fun ⟨hset, _⟩ => Bool.false_ne_true (h.symm.trans hset)).2

/-- Settles O34: `OP` 0x15 is of form N, `sext24` writes nothing, and the pattern it answers reads as the correction. -/
theorem sext24ConvertsTheLatchedReading : Obligations.Sext24ConvertsTheLatchedReading := by
  refine ⟨formNWords_op .sext24 rfl, fun s hset => ⟨sext32 s.block.r24, ?_, sext32_toInt_eq_sext24 s.block.r24⟩,
    fun s hclear => ?_⟩
  · exact exec_of_effect_eq _ s _ _ (sext24Cmd_of_latched s.block hset)
  · exact exec_of_effect_eq _ s _ _ (sext24Cmd_of_not_latched s.block hclear)

end Sys2Proof.Machine
end

section
/-! What the host cannot tell apart (10_state.md R16, R18, 70_reset_and_hazards.md R130): every operation on the block
keeps `Block.SameToHost`, so every command answers alike, and so does every run, resets included. -/

namespace Sys2Proof.Machine

/-! ### The operations on the block -/

section
variable {a b : Block}

/-- Reset states have nothing to show but the five fixed registers: no entry of `FB` is below `FLEN`, and `R24V = 0`. -/
theorem Block.IsReset.sameToHost (ha : a.IsReset) (hb : b.IsReset) : a.SameToHost b := by
  obtain ⟨acrc, apoly, ainit, aflen, aflag⟩ := ha
  obtain ⟨bcrc, bpoly, binit, bflen, bflag⟩ := hb
  refine ⟨acrc.trans bcrc.symm, apoly.trans bpoly.symm, ainit.trans binit.symm, aflen.trans bflen.symm,
    aflag.trans bflag.symm, fun k hk => ?_, fun hset => ?_⟩
  · rw [aflen] at hk
    exact absurd hk (Nat.not_lt_zero k.val)
  · rw [aflag] at hset
    cases hset

theorem resetBlock_isReset (n : Nat) : (resetBlock n).IsReset := ⟨rfl, rfl, rfl, rfl, rfl⟩

theorem Block.SameToHost.setCrc (h : a.SameToHost b) {v w : Byte} (hv : v = w) :
    (a.setCrc v).SameToHost (b.setCrc w) := by
  obtain ⟨-, hrest⟩ := h
  exact ⟨hv, hrest⟩

theorem Block.SameToHost.setPoly (h : a.SameToHost b) (v : Byte) : (a.setPoly v).SameToHost (b.setPoly v) := by
  obtain ⟨hcrc, -, hrest⟩ := h
  exact ⟨hcrc, rfl, hrest⟩

theorem Block.SameToHost.setInit (h : a.SameToHost b) (v : Byte) : (a.setInit v).SameToHost (b.setInit v) := by
  obtain ⟨hcrc, hpoly, -, hrest⟩ := h
  exact ⟨hcrc, hpoly, rfl, hrest⟩

theorem Block.SameToHost.clearFrame (h : a.SameToHost b) : a.clearFrame.SameToHost b.clearFrame := by
  obtain ⟨hcrc, hpoly, hinit, -, hflag, -, hr24⟩ := h
  exact ⟨hcrc, hpoly, hinit, rfl, hflag, fun k hk => absurd hk (Nat.not_lt_zero k.val), hr24⟩

/-- The entry a push brings below `FLEN` is the one it stores. -/
theorem Block.SameToHost.pushByte (h : a.SameToHost b) (v : Byte) : (a.pushByte v).SameToHost (b.pushByte v) := by
  obtain ⟨hcrc, hpoly, hinit, hflen, hflag, hfb, hr24⟩ := h
  refine ⟨hcrc, hpoly, hinit, congrArg countPush hflen, hflag, fun k hk => ?_, hr24⟩
  rw [Block.pushByte_flen, countPush_toNat] at hk
  rw [Block.pushByte_fb, Block.pushByte_fb, Fin.getElem_fin, Fin.getElem_fin, storeFrameByte_getElem,
    storeFrameByte_getElem, ← hflen]
  split_ifs with hnew
  · rfl
  · exact hfb k (by omega)

theorem Block.SameToHost.latchReading (h : a.SameToHost b) (v : Reading24) :
    (a.latchReading v).SameToHost (b.latchReading v) := by
  obtain ⟨hcrc, hpoly, hinit, hflen, -, hfb, -⟩ := h
  exact ⟨hcrc, hpoly, hinit, hflen, rfl, hfb, fun _ => rfl⟩

theorem Block.SameToHost.dropReading (h : a.SameToHost b) : a.dropReading.SameToHost b.dropReading := by
  obtain ⟨hcrc, hpoly, hinit, hflen, -, hfb, -⟩ := h
  exact ⟨hcrc, hpoly, hinit, hflen, rfl, hfb, nofun⟩

/-! ### The commands -/

/-- `frm.dual` reads the buffer only when all six entries are below `FLEN`. -/
theorem Block.SameToHost.frmDual (h : a.SameToHost b) :
    (frmDual a).1.SameToHost (frmDual b).1 ∧ (frmDual a).2 = (frmDual b).2 := by
  rw [frmDual_fst, frmDual_fst]
  refine ⟨h, ?_⟩
  obtain ⟨-, -, -, hflen, -, hfb, -⟩ := h
  by_cases hsix : a.flen.toNat = 6
  · have same : a.fb = b.fb := Vector.ext fun k hk => hfb ⟨k, hk⟩ (hsix.symm ▸ hk)
    exact frmDual_snd_congr a b same hflen
  · rw [frmDual_snd_of_length_ne a hsix, frmDual_snd_of_length_ne b (hflen ▸ hsix), hflen]

/-- `frm.single` reads the first three entries only when they are below `FLEN`. -/
theorem Block.SameToHost.frmSingle (h : a.SameToHost b) :
    (frmSingle a).1.SameToHost (frmSingle b).1 ∧ (frmSingle a).2 = (frmSingle b).2 := by
  have ⟨_, _, _, hflen, _, hfb, _⟩ := h
  by_cases hthree : a.flen.toNat = 3
  · have below (k : Fin 6) (hk : k.val < 3) : a.fb[k] = b.fb[k] := hfb k (hthree.symm ▸ hk)
    have reading : be24 a.fb[0] a.fb[1] a.fb[2] = be24 b.fb[0] b.fb[1] b.fb[2] :=
      congr (congrArg₂ be24 (below 0 (by decide)) (below 1 (by decide))) (below 2 (by decide))
    rw [frmSingle_of_three a hthree, frmSingle_of_three b (hflen ▸ hthree), reading]
    exact ⟨h.latchReading _, rfl⟩
  · rw [frmSingle_of_length_ne a hthree, frmSingle_of_length_ne b (hflen ▸ hthree), hflen]
    exact ⟨h.dropReading, rfl⟩

/-- `sext24` reads `R24` only while `R24V = 1`. -/
theorem Block.SameToHost.sext24Cmd (h : a.SameToHost b) :
    (sext24Cmd a).1.SameToHost (sext24Cmd b).1 ∧ (sext24Cmd a).2 = (sext24Cmd b).2 := by
  have ⟨_, _, _, _, hflag, _, hr24⟩ := h
  cases hset : a.r24v with
  | false =>
    rw [sext24Cmd_of_not_latched a hset, sext24Cmd_of_not_latched b (hflag ▸ hset)]
    exact ⟨h, rfl⟩
  | true =>
    rw [sext24Cmd_of_latched a hset, sext24Cmd_of_latched b (hflag ▸ hset), hr24 hset]
    exact ⟨h, rfl⟩

/-- No command tells two such blocks apart, and it leaves two such blocks behind. -/
theorem Block.SameToHost.effect (h : a.SameToHost b) (i : Instr) :
    (effect i a).1.SameToHost (effect i b).1 ∧ (effect i a).2 = (effect i b).2 := by
  have ⟨hcrc, hpoly, hinit, hflen, _, _, _⟩ := h
  cases i with
  | crcInit => exact ⟨h.setCrc hinit, congrArg (Response.mk 0 ∘ zext32) hinit⟩
  | crcByte v =>
    have hstep : crcByteStep a.crc v a.poly = crcByteStep b.crc v b.poly := by rw [hcrc, hpoly]
    exact ⟨h.setCrc hstep, congrArg (Response.mk 0 ∘ zext32) hstep⟩
  | crcRead => exact ⟨h, congrArg (Response.mk 0 ∘ zext32) hcrc⟩
  | crcSetpoly p => exact ⟨h.setPoly p, rfl⟩
  | crcSetinit v => exact ⟨h.setInit v, rfl⟩
  | crcGetcfg => exact ⟨h, congrArg (Response.mk 0) (congrArg₂ packConfig hinit hpoly)⟩
  | frmClear => exact ⟨h.clearFrame, rfl⟩
  | frmPush v => exact ⟨h.pushByte v, congrArg (Response.mk 0 ∘ zext32 ∘ countPush) hflen⟩
  | frmLen => exact ⟨h, congrArg (Response.mk 0 ∘ zext32) hflen⟩
  | frmDual => exact h.frmDual
  | frmSingle => exact h.frmSingle
  | sext24 => exact h.sext24Cmd

/-- The same of any word: an illegal one is answered with itself. -/
theorem Block.SameToHost.wordEffect (h : a.SameToHost b) (w : Cmd16) :
    (wordEffect w a).1.SameToHost (wordEffect w b).1 ∧ (wordEffect w a).2 = (wordEffect w b).2 := by
  unfold Machine.wordEffect
  cases decode w with
  | legal i => exact h.effect i
  | illegal e => exact ⟨h, rfl⟩

end

/-! ### Steps and runs -/

/-- What the steps of two machines keep, their runs keep, and neither run stops. -/
theorem runs_keep_rel (R : State → State → Prop)
    (hstep : ∀ s t, R s t → ∃ s' t', step s = .next s' ∧ step t = .next t' ∧ R s' t') (n : Nat) (s t : State)
    (h : R s t) : ∃ s' t', Runs n s s' ∧ Runs n t t' ∧ R s' t' := by
  induction n generalizing s t with
  | zero => exact ⟨s, t, rfl, rfl, h⟩
  | succ n ih =>
    obtain ⟨s₁, t₁, hs₁, ht₁, h₁⟩ := hstep s t h
    obtain ⟨s', t', hs', ht', h'⟩ := ih s₁ t₁ h₁
    exact ⟨s', t', (run_succ_of_step _ _ _ hs₁).trans hs', (run_succ_of_step _ _ _ ht₁).trans ht', h'⟩

/-- Two machines the host cannot tell apart: the blocks agree on all a command can read, the same inputs wait, and the
same responses came. The number of the draw may differ. -/
structure State.SameToHost (s t : State) : Prop where
  block : s.block.SameToHost t.block
  pending : s.pending = t.pending
  responses : s.responses = t.responses

/-- A reset too: it leaves two reset states, whatever the two draws are. -/
theorem State.SameToHost.step {s t : State} (h : s.SameToHost t) :
    ∃ s' t', Machine.step s = .next s' ∧ Machine.step t = .next t' ∧ s'.SameToHost t' := by
  obtain ⟨hblock, hpending, hresponses⟩ := h
  rcases step_cases s with ⟨hs, hstep⟩ | ⟨w, rest, hs, hstep⟩ | ⟨rest, hs, hstep⟩
  · exact ⟨s, t, hstep, step_of_idle t (hpending ▸ hs), hblock, hpending, hresponses⟩
  · obtain ⟨hsame, hanswer⟩ := hblock.wordEffect w
    exact ⟨_, _, hstep, step_of_command_eq_next t w rest (hpending ▸ hs), hsame, rfl,
      congrArg₂ (fun rs r => rs ++ [r]) hresponses hanswer⟩
  · exact ⟨_, _, hstep, step_of_reset t rest (hpending ▸ hs),
      (resetBlock_isReset _).sameToHost (resetBlock_isReset _), rfl, rfl⟩

theorem State.SameToHost.runs {s t : State} (h : s.SameToHost t) (n : Nat) :
    ∃ s' t', Runs n s s' ∧ Runs n t t' ∧ s'.SameToHost t' :=
  runs_keep_rel State.SameToHost (fun _ _ => State.SameToHost.step) n s t h

/-- Settles O11: the step of a reset leaves `resetBlock`, and reset states with the same inputs are states the host
cannot tell apart, which `State.SameToHost.runs` keeps. -/
theorem resetSetsFiveRegistersAndHidesTheRest : Obligations.ResetSetsFiveRegistersAndHidesTheRest := by
  refine ⟨fun s rest hp => ⟨_, step_of_reset s rest hp, resetBlock_isReset _⟩,
    fun s t hs ht hpending hresponses n => ?_⟩
  have same : s.SameToHost t := ⟨hs.sameToHost ht, hpending, hresponses⟩
  obtain ⟨s', t', hrun, hrun', same'⟩ := same.runs n
  exact ⟨s', t', hrun, hrun', same'.responses⟩

end Sys2Proof.Machine
end

section
/-! The words of the commands, and the steps at the ports (30_encoding.md R42, R43, 70_reset_and_hazards.md R130,
R131). -/

namespace Sys2Proof

open Machine

/-- Settles O1: one direction is `decode_encode`, the other the uniqueness of the word in `decode_eq_legal_iff`. -/
theorem decodeAndEncodeAreInverse : Obligations.DecodeAndEncodeAreInverse :=
  ⟨decode_encode, fun w i h => ((decode_eq_legal_iff w i).1 h).symm⟩

/-- Settles O5: each of the six words is the encoding of its command. -/
theorem writtenOutWordsDecode : Obligations.WrittenOutWordsDecode :=
  ⟨decode_encode .crcInit, decode_encode (.crcByte 0xBE), decode_encode (.frmPush 7), decode_encode .frmDual,
    decode_encode .sext24, decode_encode (.crcSetpoly 0x07)⟩

end Sys2Proof

namespace Sys2Proof.Machine

/-- Settles O6: the step runs the word, and a legal word runs as its command. -/
theorem stepRunsTheDecodedCommand : Obligations.StepRunsTheDecodedCommand := fun s w i rest hp hd =>
  (step_of_command s w rest hp).trans (runCommand_of_legal w i _ hd)

/-- Settles O7: the two are the step's cases for an empty port and for a reset. -/
theorem idleAndResetStepsAtThePorts : Obligations.IdleAndResetStepsAtThePorts :=
  ⟨step_of_idle, fun s rest hp => ⟨_, step_of_reset s rest hp, rfl, rfl, rfl⟩⟩

/-- Settles O10: the values are those `resetBlock` writes. -/
theorem resetStateHasTheFixedValues : Obligations.ResetStateHasTheFixedValues :=
  ⟨resetBlock_crc 0, resetBlock_poly 0, resetBlock_init 0, resetBlock_flen 0, resetBlock_r24v 0, State.reset_pending,
    State.reset_responses⟩

/-- The only next state of a command. -/
theorem eq_answer_of_exec_eq_next {i : Instr} {s t : State} (h : exec i s = .next t) :
    t = s.answer (effect i s.block).1 (effect i s.block).2 := by
  rwa [exec_eq_complete, State.complete_eq_next] at h

/-- Settles O22: each setter leaves the register it names, and the next command reads that register. -/
theorem configurationTakesEffectAtOnce : Obligations.ConfigurationTakesEffectAtOnce := by
  refine ⟨fun s t p b h => ⟨_, exec_eq_next _ t, ?_⟩, fun s t v h => ⟨_, exec_eq_next _ t, ?_⟩⟩
  · rw [eq_answer_of_exec_eq_next h]
    rfl
  · rw [eq_answer_of_exec_eq_next h]
    rfl

end Sys2Proof.Machine
end

section
/-! The invariant of the machine: lawful responses, and a latched reading that was returned (30_encoding.md R47,
41_frame.md R85, R90, 60_exceptions.md R111). -/

namespace Sys2Proof.Machine

/-! ### The responses -/

theorem lawful_ok (d : Word32) : Response.lawful ⟨0, d⟩ = true := rfl

/-- A length error reports a count, which is a 3-bit value. -/
theorem lawful_invalidFrameLength (n : BitVec 3) : Response.lawful ⟨1, zext32 n⟩ = true := by
  have hlt : (zext32 n).toNat < 8 := by
    rw [zext32_toNat (by decide)]
    exact n.isLt
  exact decide_eq_true hlt

/-- A mismatch reports two different bytes. -/
theorem lawful_checksumMismatch (k : BitVec 1) (computed received : Byte) (h : computed ≠ received) :
    Response.lawful ⟨2, packMismatch k computed received⟩ = true := by
  refine Bool.and_eq_true_iff.2 ⟨decide_eq_true (packMismatch_lt k computed received), ?_⟩
  rw [packMismatch_computed, packMismatch_received]
  exact bne_iff_ne.2 h

/-- An illegal command reports its word, which the low half of the data gives back. -/
theorem lawful_illegalCommand (w : Cmd16) (h : (decode w).isLegal = false) :
    Response.lawful ⟨3, zext32 w⟩ = true := by
  have hlt : (zext32 w).toNat < 2 ^ 16 := by
    rw [zext32_toNat (by decide)]
    exact w.isLt
  have hword : (zext32 w).setWidth 16 = w := by
    rw [zext32, BitVec.setWidth_setWidth_of_le _ (by decide), BitVec.setWidth_eq]
  refine Bool.and_eq_true_iff.2 ⟨decide_eq_true hlt, ?_⟩
  rw [hword, h, Bool.not_false]

theorem lawful_noValue : Response.lawful ⟨4, 0⟩ = true := rfl

/-- Every command answers lawfully. -/
theorem lawful_effect (i : Instr) (b : Block) : (effect i b).2.lawful = true := by
  cases i with
  | frmDual =>
    rw [effect]
    rcases frmDual_snd_cases b with ⟨-, he⟩ | ⟨-, hA, he⟩ | ⟨-, -, hB, he⟩ | ⟨-, -, -, he⟩ <;> rw [he]
    · exact lawful_invalidFrameLength b.flen
    · exact lawful_checksumMismatch 0 _ _ hA
    · exact lawful_checksumMismatch 1 _ _ hB
    · exact lawful_ok _
  | frmSingle =>
    rw [effect]
    rcases frmSingle_cases b with ⟨-, he⟩ | ⟨-, he⟩ <;> rw [he]
    · exact lawful_invalidFrameLength b.flen
    · exact lawful_ok _
  | sext24 =>
    rw [effect]
    rcases sext24Cmd_cases b with ⟨-, he⟩ | ⟨-, he⟩ <;> rw [he]
    · exact lawful_noValue
    · exact lawful_ok _
  | crcInit | crcByte | crcRead | crcSetpoly | crcSetinit | crcGetcfg | frmClear | frmPush | frmLen => exact lawful_ok _

/-- So does every word, an illegal one included. -/
theorem lawful_wordEffect (w : Cmd16) (b : Block) : (wordEffect w b).2.lawful = true := by
  unfold wordEffect
  cases hd : decode w with
  | legal i => exact lawful_effect i b
  | illegal e => exact lawful_illegalCommand w (hd ▸ Decoded.isLegal_illegal e)

/-! ### The latched reading -/

@[simp] theorem sext24Cmd_fst (b : Block) : (sext24Cmd b).1 = b := by
  rcases sext24Cmd_cases b with ⟨-, he⟩ | ⟨-, he⟩ <;> rw [he]

/-- No command but `frm.single` writes `R24` or `R24V` (10_state.md R18, R19). -/
theorem effect_reading_of_ne_frmSingle (i : Instr) (b : Block) (h : i ≠ .frmSingle) :
    (effect i b).1.r24 = b.r24 ∧ (effect i b).1.r24v = b.r24v := by
  cases i with
  | frmSingle => exact absurd rfl h
  | frmDual => simp [effect]
  | sext24 => simp [effect]
  | crcInit | crcByte | crcRead | crcSetpoly | crcSetinit | crcGetcfg | frmClear | frmPush | frmLen => exact ⟨rfl, rfl⟩

/-- A reading that is latched after a command was latched before it, or is the command's OK response. -/
theorem effect_latched (i : Instr) (b : Block) (h : (effect i b).1.r24v = true) :
    b.r24v = true ∧ (effect i b).1.r24 = b.r24 ∨ (effect i b).2 = ⟨0, zext32 (effect i b).1.r24⟩ := by
  by_cases hi : i = .frmSingle
  · subst hi
    rw [effect] at h ⊢
    rcases frmSingle_cases b with ⟨-, he⟩ | ⟨-, he⟩ <;> rw [he] at h ⊢
    · cases h
    · exact .inr rfl
  · obtain ⟨hr24, hflag⟩ := effect_reading_of_ne_frmSingle i b hi
    exact .inl ⟨hflag ▸ h, hr24⟩

theorem wordEffect_latched (w : Cmd16) (b : Block) (h : (wordEffect w b).1.r24v = true) :
    b.r24v = true ∧ (wordEffect w b).1.r24 = b.r24 ∨ (wordEffect w b).2 = ⟨0, zext32 (wordEffect w b).1.r24⟩ := by
  unfold wordEffect at h ⊢
  cases hd : decode w with
  | legal i =>
    rw [hd] at h
    exact effect_latched i b h
  | illegal e =>
    rw [hd] at h
    exact .inl ⟨h, rfl⟩

/-! ### The steps -/

/-- With no response there is nothing to check, and with no latched reading nothing to look for. -/
theorem inv_of_no_response {s : State} (hresponses : s.responses = []) (hflag : s.block.r24v = false) : s.Inv := by
  refine ⟨fun r hr => ?_, fun hset => ?_⟩
  · rw [hresponses] at hr
    cases hr
  · rw [hflag] at hset
    cases hset

/-- The answer to a word keeps the invariant. -/
theorem inv_answer_wordEffect {s : State} (h : s.Inv) (w : Cmd16) :
    (s.answer (wordEffect w s.block).1 (wordEffect w s.block).2).Inv := by
  obtain ⟨hlawful, hreading⟩ := h
  rw [State.Inv, State.answer_responses, State.answer_block]
  refine ⟨List.forall_mem_append.2 ⟨hlawful, List.forall_mem_singleton.2 (lawful_wordEffect w s.block)⟩, fun hset => ?_⟩
  rcases wordEffect_latched w s.block hset with ⟨hbefore, hsame⟩ | hanswer
  · rw [hsame]
    exact List.mem_append_left _ (hreading hbefore)
  · rw [← hanswer]
    exact List.mem_append_right _ List.mem_cons_self

/-- Settles O42: the reset state has no response and no latched reading. -/
theorem resetMeetsTheInvariant : Obligations.ResetMeetsTheInvariant :=
  inv_of_no_response State.reset_responses (resetBlock_r24v 0)

/-- Settles O43: a step waits, answers a word, or takes a reset, and each keeps the invariant. -/
theorem everyStepKeepsTheInvariant : Obligations.EveryStepKeepsTheInvariant := by
  intro s hinv
  rcases step_cases s with ⟨-, hs⟩ | ⟨w, rest, -, hs⟩ | ⟨rest, -, hs⟩
  · exact ⟨s, hs, hinv⟩
  · exact ⟨_, hs, inv_answer_wordEffect (s := { s with pending := rest }) hinv w⟩
  · exact ⟨_, hs, inv_of_no_response (State.takeReset_responses _) (resetBlock_r24v _)⟩

end Sys2Proof.Machine
end

section
/-! Runs of issued words, and what the host cannot see (20_memory.md R38, 10_state.md R16, R18). -/

namespace Sys2Proof.Machine

/-- The block after the words `ws`. -/
def blockAfterWords (ws : List Cmd16) (b : Block) : Block := ws.foldl (fun b w => (wordEffect w b).1) b

/-- The responses to the first `k` of the words `ws`, in order. -/
def wordAnswers (ws : List Cmd16) (b : Block) (k : Nat) : List Response :=
  (List.range k).map fun j => (wordEffect (ws.getD j 0) (blockAfterWords (ws.take j) b)).2

section
variable (ws : List Cmd16) (b : Block) (k : Nat)

/-- The word after the first `k` sees the block they left. -/
theorem blockAfterWords_take_succ (hk : k < ws.length) :
    blockAfterWords (ws.take (k + 1)) b = (wordEffect ws[k] (blockAfterWords (ws.take k) b)).1 := by
  rw [List.take_succ_eq_append_getElem hk, blockAfterWords, List.foldl_concat, ← blockAfterWords]

theorem wordAnswers_succ (hk : k < ws.length) :
    wordAnswers ws b (k + 1) = wordAnswers ws b k ++ [(wordEffect ws[k] (blockAfterWords (ws.take k) b)).2] := by
  rw [wordAnswers, List.range_succ, List.map_append, List.map_singleton, List.getD_eq_getElem ws 0 hk, ← wordAnswers]

end

/-- Words at the head of the port are run in order, legal or not, one step and one response each. -/
theorem runs_words (ws : List Cmd16) (rest : List Input) (s : State) (hp : s.pending = ws.map .command ++ rest)
    (k : Nat) (hk : k ≤ ws.length) :
    Runs k s { s with block := blockAfterWords (ws.take k) s.block, pending := (ws.drop k).map .command ++ rest,
                      responses := s.responses ++ wordAnswers ws s.block k } := by
  induction k with
  | zero =>
    have hs : ({ s with block := blockAfterWords (ws.take 0) s.block, pending := (ws.drop 0).map .command ++ rest,
                        responses := s.responses ++ wordAnswers ws s.block 0 } : State) = s := by
      simp [blockAfterWords, wordAnswers, ← hp]
    rw [hs]
    exact run_zero s
  | succ k ih =>
    have hstep := step_of_command_eq_next
      { s with block := blockAfterWords (ws.take k) s.block, pending := (ws.drop k).map .command ++ rest,
               responses := s.responses ++ wordAnswers ws s.block k }
      ws[k] ((ws.drop (k + 1)).map .command ++ rest) (by rw [List.drop_eq_getElem_cons hk]; rfl)
    refine runs_append k 1 s _ _ (ih (Nat.le_of_succ_le hk)) ((run_succ_of_step 0 _ _ hstep).trans ?_)
    rw [run_zero, blockAfterWords_take_succ ws _ k hk, wordAnswers_succ ws _ k hk, ← List.append_assoc]
    rfl

/-- Settles O9: the one function is `wordEffect`, and the run is `runs_words`. -/
theorem runsAnswerCommandsInIssueOrder : Obligations.RunsAnswerCommandsInIssueOrder :=
  ⟨fun b w => wordEffect w b, fun ws rest s hp k hk => ⟨_, runs_words ws rest s hp k hk, rfl, rfl, rfl, rfl⟩⟩

/-- Settles O12: the two machines are `State.SameToHost`, and so are the states their runs end in. -/
theorem unreadBitsNeverReachTheHost : Obligations.UnreadBitsNeverReachTheHost := by
  intro s t hblock hpending hresponses n
  have same : s.SameToHost t := ⟨hblock, hpending, hresponses⟩
  obtain ⟨s', t', hrun, hrun', hblock', hpending', hresponses'⟩ := same.runs n
  exact ⟨s', t', hrun, hrun', hresponses', hpending', hblock'⟩

end Sys2Proof.Machine
end

section
/-! The writers of each register (10_state.md R12 to R19, 20_memory.md R35). -/

namespace Sys2Proof.Machine

/-! ### The registers `frm.single` leaves alone -/

section
variable (b : Block)

/-- `frm.single` writes `R24` and `R24V` only, and under an error `R24V` only. -/
theorem frmSingle_fst :
    (frmSingle b).1 =
      if b.flen.toNat = 3 then b.latchReading (be24 b.fb[0] b.fb[1] b.fb[2]) else b.dropReading := by
  split_ifs with h
  · rw [frmSingle_of_three b h]
  · rw [frmSingle_of_length_ne b h]

@[simp] theorem frmSingle_crc : (frmSingle b).1.crc = b.crc := by rw [frmSingle_fst]; split_ifs <;> rfl
@[simp] theorem frmSingle_poly : (frmSingle b).1.poly = b.poly := by rw [frmSingle_fst]; split_ifs <;> rfl
@[simp] theorem frmSingle_init : (frmSingle b).1.init = b.init := by rw [frmSingle_fst]; split_ifs <;> rfl
@[simp] theorem frmSingle_fb : (frmSingle b).1.fb = b.fb := by rw [frmSingle_fst]; split_ifs <;> rfl
@[simp] theorem frmSingle_flen : (frmSingle b).1.flen = b.flen := by rw [frmSingle_fst]; split_ifs <;> rfl

end

/-! ### The writers, register by register -/

section
variable (i : Instr) (b : Block)

theorem writer_of_crc_ne (h : (effect i b).1.crc ≠ b.crc) : i = .crcInit ∨ ∃ v, i = .crcByte v := by
  cases i with
  | crcInit => exact .inl rfl
  | crcByte v => exact .inr ⟨v, rfl⟩
  | frmDual | frmSingle | sext24 => simp [effect] at h
  | crcRead | crcSetpoly | crcSetinit | crcGetcfg | frmClear | frmPush | frmLen => exact absurd rfl h

theorem writer_of_poly_ne (h : (effect i b).1.poly ≠ b.poly) : ∃ p, i = .crcSetpoly p := by
  cases i with
  | crcSetpoly p => exact ⟨p, rfl⟩
  | frmDual | frmSingle | sext24 => simp [effect] at h
  | crcInit | crcByte | crcRead | crcSetinit | crcGetcfg | frmClear | frmPush | frmLen => exact absurd rfl h

theorem writer_of_init_ne (h : (effect i b).1.init ≠ b.init) : ∃ v, i = .crcSetinit v := by
  cases i with
  | crcSetinit v => exact ⟨v, rfl⟩
  | frmDual | frmSingle | sext24 => simp [effect] at h
  | crcInit | crcByte | crcRead | crcSetpoly | crcGetcfg | frmClear | frmPush | frmLen => exact absurd rfl h

theorem writer_of_fb_ne (h : (effect i b).1.fb ≠ b.fb) : ∃ v, i = .frmPush v := by
  cases i with
  | frmPush v => exact ⟨v, rfl⟩
  | frmDual | frmSingle | sext24 => simp [effect] at h
  | crcInit | crcByte | crcRead | crcSetpoly | crcSetinit | crcGetcfg | frmClear | frmLen => exact absurd rfl h

theorem writer_of_flen_ne (h : (effect i b).1.flen ≠ b.flen) : i = .frmClear ∨ ∃ v, i = .frmPush v := by
  cases i with
  | frmClear => exact .inl rfl
  | frmPush v => exact .inr ⟨v, rfl⟩
  | frmDual | frmSingle | sext24 => simp [effect] at h
  | crcInit | crcByte | crcRead | crcSetpoly | crcSetinit | crcGetcfg | frmLen => exact absurd rfl h

/-- A new reading is written only under OK: the error path of `frm.single` keeps `R24`. -/
theorem writer_of_r24_ne (h : (effect i b).1.r24 ≠ b.r24) : i = .frmSingle ∧ (effect i b).2.code = 0 := by
  obtain rfl : i = .frmSingle := by_contra fun hi => h (effect_reading_of_ne_frmSingle i b hi).1
  refine ⟨rfl, ?_⟩
  rw [effect] at h ⊢
  rcases frmSingle_cases b with ⟨-, he⟩ | ⟨-, he⟩ <;> rw [he] at h ⊢
  exact absurd rfl h

theorem writer_of_r24v_ne (h : (effect i b).1.r24v ≠ b.r24v) : i = .frmSingle :=
  by_contra fun hi => h (effect_reading_of_ne_frmSingle i b hi).2

end

/-- What a word changes, the command it decodes to changes: an illegal word changes nothing. -/
theorem exists_legal_of_wordEffect_ne {α : Type} (reg : Block → α) (w : Cmd16) (b : Block)
    (h : reg (wordEffect w b).1 ≠ reg b) :
    ∃ i, decode w = .legal i ∧ wordEffect w b = effect i b ∧ reg (effect i b).1 ≠ reg b := by
  unfold wordEffect at h ⊢
  cases hd : decode w with
  | legal i =>
    rw [hd] at h
    exact ⟨i, rfl, rfl, h⟩
  | illegal e =>
    rw [hd] at h
    exact absurd rfl h

/-- Settles O38: the step is `wordEffect`'s, a change is one of the decoded command, and each register has its lemma on
who writes it. -/
theorem registersChangeOnlyByTheirWriters : Obligations.RegistersChangeOnlyByTheirWriters := by
  intro s w rest hp
  refine ⟨_, _, step_of_command_eq_next s w rest hp, rfl, rfl, rfl, fun h => ?_, fun h => ?_, fun h => ?_, fun h => ?_,
    fun h => ?_, fun h => ?_, fun h => ?_⟩
  · obtain ⟨i, hd, -, hi⟩ := exists_legal_of_wordEffect_ne Block.crc w s.block h
    obtain rfl | ⟨v, rfl⟩ := writer_of_crc_ne i s.block hi
    · exact .inl hd
    · exact .inr ⟨v, hd⟩
  · obtain ⟨i, hd, -, hi⟩ := exists_legal_of_wordEffect_ne Block.poly w s.block h
    obtain ⟨p, rfl⟩ := writer_of_poly_ne i s.block hi
    exact ⟨p, hd⟩
  · obtain ⟨i, hd, -, hi⟩ := exists_legal_of_wordEffect_ne Block.init w s.block h
    obtain ⟨v, rfl⟩ := writer_of_init_ne i s.block hi
    exact ⟨v, hd⟩
  · obtain ⟨i, hd, -, hi⟩ := exists_legal_of_wordEffect_ne Block.fb w s.block h
    obtain ⟨v, rfl⟩ := writer_of_fb_ne i s.block hi
    exact ⟨v, hd⟩
  · obtain ⟨i, hd, -, hi⟩ := exists_legal_of_wordEffect_ne Block.flen w s.block h
    obtain rfl | ⟨v, rfl⟩ := writer_of_flen_ne i s.block hi
    · exact .inl hd
    · exact .inr ⟨v, hd⟩
  · obtain ⟨i, hd, heffect, hi⟩ := exists_legal_of_wordEffect_ne Block.r24 w s.block h
    obtain ⟨rfl, hcode⟩ := writer_of_r24_ne i s.block hi
    exact ⟨hd, heffect ▸ hcode⟩
  · obtain ⟨i, hd, -, hi⟩ := exists_legal_of_wordEffect_ne Block.r24v w s.block h
    exact writer_of_r24v_ne i s.block hi ▸ hd

/-! ### Bytes once pushed -/

/-- A push writes at the count, so not below it. -/
theorem effect_fb_getElem_of_lt_flen (i : Instr) (b : Block) (k : Nat) (hk : k < 6) (hlt : k < b.flen.toNat) :
    (effect i b).1.fb[k] = b.fb[k] := by
  by_cases hfb : (effect i b).1.fb = b.fb
  · rw [hfb]
  · obtain ⟨v, rfl⟩ := writer_of_fb_ne i b hfb
    exact (storeFrameByte_getElem b.fb b.flen v k hk).trans (if_neg (Nat.ne_of_lt hlt))

theorem flen_le_countPush (n : BitVec 3) : n.toNat ≤ (countPush n).toNat := by
  have := n.isLt
  rw [countPush_toNat]
  omega

/-- Only `frm.clear` lowers the count. -/
theorem flen_le_effect_flen (i : Instr) (b : Block) (h : i ≠ .frmClear) :
    b.flen.toNat ≤ (effect i b).1.flen.toNat := by
  by_cases hflen : (effect i b).1.flen = b.flen
  · rw [hflen]
  · obtain ⟨v, rfl⟩ := (writer_of_flen_ne i b hflen).resolve_left h
    exact flen_le_countPush b.flen

/-- Settles O39: the two clauses are those of the writers of `FB` and `FLEN`. -/
theorem pushedBytesAreNeverChanged : Obligations.PushedBytesAreNeverChanged := fun i s =>
  ⟨_, exec_eq_next i s, fun k hk => effect_fb_getElem_of_lt_flen i s.block k.val k.isLt hk,
    flen_le_effect_flen i s.block⟩

/-! ### Idempotent commands (20_memory.md R35) -/

/-- The commands that write no state. -/
theorem effect_fst_of_reader (i : Instr) (b : Block) (h : i ∈ [Instr.crcRead, .crcGetcfg, .frmLen, .frmDual, .sext24]) :
    (effect i b).1 = b := by
  simp only [List.mem_cons, List.not_mem_nil, or_false] at h
  rcases h with rfl | rfl | rfl | rfl | rfl
  · rfl
  · rfl
  · rfl
  · exact frmDual_fst b
  · exact sext24Cmd_fst b

/-- `frm.single` writes neither the count nor the bytes it reads. -/
theorem frmSingle_idempotent (b : Block) : frmSingle (frmSingle b).1 = frmSingle b := by
  rcases frmSingle_cases b with ⟨hlen, he⟩ | ⟨hlen, he⟩ <;> rw [he]
  · exact frmSingle_of_length_ne b.dropReading hlen
  · exact frmSingle_of_three (b.latchReading _) hlen

/-- All commands but the two that take a byte in. -/
theorem effect_idempotent (i : Instr) (b : Block) (hbyte : ∀ v, i ≠ .crcByte v) (hpush : ∀ v, i ≠ .frmPush v) :
    effect i (effect i b).1 = effect i b := by
  cases i with
  | crcByte v => exact absurd rfl (hbyte v)
  | frmPush v => exact absurd rfl (hpush v)
  | frmDual => exact congrArg frmDual (frmDual_fst b)
  | frmSingle => exact frmSingle_idempotent b
  | sext24 => exact congrArg sext24Cmd (sext24Cmd_fst b)
  | crcInit | crcRead | crcSetpoly | crcSetinit | crcGetcfg | frmClear | frmLen => rfl

/-- With POLY 0x31, `crc.byte b` issued twice from this `CRC` leaves two different values. -/
def crcByteWitness (b : Byte) : Byte := if b = 0 then 1 else 0

theorem crcByteStep_twice_ne (b : Byte) :
    crcByteStep (crcByteStep (crcByteWitness b) b 0x31) b 0x31 ≠ crcByteStep (crcByteWitness b) b 0x31 := by
  revert b
  decide +kernel

/-- `crc.byte` is not idempotent, whatever its operand is. -/
theorem crcByte_not_idempotent (v : Byte) : ∃ b, (effect (.crcByte v) (effect (.crcByte v) b).1).1 ≠
    (effect (.crcByte v) b).1 :=
  ⟨(resetBlock 0).setCrc (crcByteWitness v), fun h => crcByteStep_twice_ne v (congrArg Block.crc h)⟩

/-- Nor is `frm.push`: the count goes from 0 to 1 and on to 2. -/
theorem frmPush_not_idempotent (v : Byte) : ∃ b, (effect (.frmPush v) (effect (.frmPush v) b).1).1 ≠
    (effect (.frmPush v) b).1 :=
  have count_ne : countPush (countPush 0) ≠ countPush 0 := by decide
  ⟨resetBlock 0, fun h => count_ne (congrArg Block.flen h)⟩

/-- A command whose effect issued twice differs, as a command of the machine. -/
theorem exists_exec_twice_ne (i : Instr) (h : ∃ b, (effect i (effect i b).1).1 ≠ (effect i b).1) :
    ∃ s t u : State, exec i s = .next t ∧ exec i t = .next u ∧ u.block ≠ t.block := by
  obtain ⟨b, hb⟩ := h
  exact ⟨{ State.reset with block := b }, _, _, exec_eq_next i _, exec_eq_next i _, hb⟩

/-- Settles O40: the readers write nothing, the effect of the idempotent commands is `effect_idempotent`, and the other
two have a block each on which they are not. -/
theorem idempotentCommandsAnswerTwiceAlike : Obligations.IdempotentCommandsAnswerTwiceAlike := by
  refine ⟨fun i s hi => ⟨_, exec_eq_next i s, effect_fst_of_reader i s.block hi⟩, fun i s hbyte hpush => ?_,
    fun v => ⟨exists_exec_twice_ne _ (crcByte_not_idempotent v), exists_exec_twice_ne _ (frmPush_not_idempotent v)⟩⟩
  have twice := effect_idempotent i s.block hbyte hpush
  refine ⟨_, _, _, exec_eq_next i s, rfl, exec_eq_next i _, ?_, congrArg Prod.fst twice⟩
  rw [State.answer_block, twice]
  rfl

end Sys2Proof.Machine
end

section
/-! Runs and the two groups of commands (10_state.md R12 to R19). -/

namespace Sys2Proof.Machine

/-! ### What a run keeps -/

/-- What each command of a run keeps, the run keeps. -/
theorem blockAfter_keeps {α : Type} (reg : Block → α) (cs : List Instr)
    (hkeep : ∀ i ∈ cs, ∀ b, reg (effect i b).1 = reg b) (b : Block) : reg (blockAfter cs b) = reg b := by
  induction cs generalizing b with
  | nil => rfl
  | cons i cs ih =>
    obtain ⟨hi, hcs⟩ := List.forall_mem_cons.1 hkeep
    rw [blockAfter_cons, ih hcs, hi]

/-- Settles O37: a run without `frm.single` keeps `R24` and `R24V`, which are all that `sext24` reads. -/
theorem sext24AnswersForTheMostRecentSingle : Obligations.Sext24AnswersForTheMostRecentSingle := by
  intro cs s hcs hp
  have reading (i) (hi : i ∈ cs) (b : Block) := effect_reading_of_ne_frmSingle i b (ne_of_mem_of_not_mem hi hcs)
  have hr24 : (blockAfter cs s.block).r24 = s.block.r24 :=
    blockAfter_keeps Block.r24 cs (fun i hi b => (reading i hi b).1) s.block
  have hflag : (blockAfter cs s.block).r24v = s.block.r24v :=
    blockAfter_keeps Block.r24v cs (fun i hi b => (reading i hi b).2) s.block
  refine ⟨_, runs_all_commandInputs cs s hp, fun hclear => ?_, fun hset => ?_⟩
  · exact exec_of_effect_eq _ _ _ _ (sext24Cmd_of_not_latched _ (hflag.trans hclear))
  · rw [← hr24]
    exact exec_of_effect_eq _ _ _ _ (sext24Cmd_of_latched _ (hflag.trans hset))

/-! ### The registers of each group -/

/-- The registers of the CRC engine. -/
def Block.crcRegs (b : Block) : Byte × Byte × Byte := (b.crc, b.poly, b.init)

/-- The registers of the frame parser. -/
def Block.frameRegs (b : Block) : Vector Byte 6 × BitVec 3 × Reading24 × Bool := (b.fb, b.flen, b.r24, b.r24v)

theorem crcRegs_eq_iff (a b : Block) : a.crcRegs = b.crcRegs ↔ a.crc = b.crc ∧ a.poly = b.poly ∧ a.init = b.init := by
  simp [Block.crcRegs]

theorem frameRegs_eq_iff (a b : Block) :
    a.frameRegs = b.frameRegs ↔ a.fb = b.fb ∧ a.flen = b.flen ∧ a.r24 = b.r24 ∧ a.r24v = b.r24v := by
  simp [Block.frameRegs]

/-- A frame command leaves the CRC registers alone. -/
theorem effect_crcRegs_of_frame (i : Instr) (b : Block) (h : i.isCrcEngine = false) :
    (effect i b).1.crcRegs = b.crcRegs := by
  cases i with
  | crcInit | crcByte | crcRead | crcSetpoly | crcSetinit | crcGetcfg => cases h
  | frmClear | frmPush | frmLen => rfl
  | frmDual | frmSingle | sext24 => simp [effect, Block.crcRegs]

/-- A command of the CRC engine leaves the frame registers alone. -/
theorem effect_frameRegs_of_crcEngine (i : Instr) (b : Block) (h : i.isCrcEngine = true) :
    (effect i b).1.frameRegs = b.frameRegs := by
  cases i with
  | crcInit | crcByte | crcRead | crcSetpoly | crcSetinit | crcGetcfg => rfl
  | frmClear | frmPush | frmLen | frmDual | frmSingle | sext24 => cases h

/-- What a command of the CRC engine writes is a function of the CRC registers. -/
theorem effect_crcRegs_congr (i : Instr) (h : i.isCrcEngine = true) {a b : Block} (hab : a.crcRegs = b.crcRegs) :
    (effect i a).1.crcRegs = (effect i b).1.crcRegs := by
  obtain ⟨hcrc, hpoly, hinit⟩ := (crcRegs_eq_iff a b).1 hab
  rw [crcRegs_eq_iff]
  cases i with
  | crcInit => exact ⟨hinit, hpoly, hinit⟩
  | crcByte v => exact ⟨congrArg₂ (fun r p => crcByteStep r v p) hcrc hpoly, hpoly, hinit⟩
  | crcRead | crcGetcfg => exact ⟨hcrc, hpoly, hinit⟩
  | crcSetpoly p => exact ⟨hcrc, rfl, hinit⟩
  | crcSetinit v => exact ⟨hcrc, hpoly, rfl⟩
  | frmClear | frmPush | frmLen | frmDual | frmSingle | sext24 => cases h

/-- What a frame command writes is a function of the frame registers. -/
theorem effect_frameRegs_congr (i : Instr) (h : i.isCrcEngine = false) {a b : Block} (hab : a.frameRegs = b.frameRegs) :
    (effect i a).1.frameRegs = (effect i b).1.frameRegs := by
  obtain ⟨hfb, hflen, hr24, hflag⟩ := (frameRegs_eq_iff a b).1 hab
  rw [frameRegs_eq_iff]
  cases i with
  | crcInit | crcByte | crcRead | crcSetpoly | crcSetinit | crcGetcfg => cases h
  | frmClear => exact ⟨hfb, rfl, hr24, hflag⟩
  | frmPush v =>
    exact ⟨congrArg₂ (fun fb n => storeFrameByte fb n v) hfb hflen, congrArg countPush hflen, hr24, hflag⟩
  | frmLen => exact ⟨hfb, hflen, hr24, hflag⟩
  | frmDual | sext24 => simp [effect, hfb, hflen, hr24, hflag]
  | frmSingle =>
    rw [effect, effect, frmSingle_fst, frmSingle_fst, hfb, hflen]
    split_ifs
    · exact ⟨hfb, hflen, rfl, rfl⟩
    · exact ⟨hfb, hflen, hr24, rfl⟩

/-! ### Runs of both groups -/

/-- Registers that the commands outside a group keep, and that those of the group write as a function of them, end a run
as the commands of the group alone would leave them. -/
theorem blockAfter_filter {α : Type} (regs : Block → α) (group : Instr → Bool)
    (hkeep : ∀ i b, group i = false → regs (effect i b).1 = regs b)
    (hcongr : ∀ i, group i = true → ∀ {a b}, regs a = regs b → regs (effect i a).1 = regs (effect i b).1)
    (cs : List Instr) (a b : Block) (h : regs a = regs b) :
    regs (blockAfter cs a) = regs (blockAfter (cs.filter group) b) := by
  induction cs generalizing a b with
  | nil => exact h
  | cons i cs ih =>
    rw [blockAfter_cons]
    cases hi : group i with
    | false =>
      rw [List.filter_cons_of_neg (by simp [hi])]
      exact ih _ _ ((hkeep i a hi).trans h)
    | true =>
      rw [List.filter_cons_of_pos hi, blockAfter_cons]
      exact ih _ _ (hcongr i hi h)

/-- A run leaves the CRC registers as its CRC-engine commands alone would. -/
theorem blockAfter_crcRegs (cs : List Instr) (b : Block) :
    (blockAfter cs b).crcRegs = (blockAfter (cs.filter Instr.isCrcEngine) b).crcRegs :=
  blockAfter_filter Block.crcRegs Instr.isCrcEngine effect_crcRegs_of_frame effect_crcRegs_congr cs b b rfl

/-- A run leaves the frame registers as its frame commands alone would. -/
theorem blockAfter_frameRegs (cs : List Instr) (b : Block) :
    (blockAfter cs b).frameRegs = (blockAfter (cs.filter fun i => !i.isCrcEngine) b).frameRegs :=
  blockAfter_filter Block.frameRegs (fun i => !i.isCrcEngine)
    (fun i b hi => effect_frameRegs_of_crcEngine i b (by simpa using hi))
    (fun i hi => effect_frameRegs_congr i (by simpa using hi)) cs b b rfl

/-- Settles O41: the three runs are `runs_all_commandInputs`, and the registers of each group are those of its filtered
run. -/
theorem commandGroupsDoNotInterfere : Obligations.CommandGroupsDoNotInterfere := by
  intro cs s hp
  obtain ⟨hcrc, hpoly, hinit⟩ := (crcRegs_eq_iff _ _).1 (blockAfter_crcRegs cs s.block)
  exact ⟨_, _, _, runs_all_commandInputs cs s hp, runs_all_commandInputs _ _ rfl, runs_all_commandInputs _ _ rfl,
    hcrc, hpoly, hinit, (frameRegs_eq_iff _ _).1 (blockAfter_frameRegs cs s.block)⟩

end Sys2Proof.Machine
end

section
/-! The algebraic laws of the checksum (40_crc.md R64). -/

namespace Sys2Proof.Machine

/-- A bit step is linear: the top bit of a XOR is the XOR of the top bits, so the polynomial is taken in twice or not at
all when both have it. -/
theorem crcShift1_xor (r₁ r₂ p : Byte) : crcShift1 (r₁ ^^^ r₂) p = crcShift1 r₁ p ^^^ crcShift1 r₂ p := by
  unfold crcShift1
  rw [BitVec.getLsbD_xor, BitVec.shiftLeft_xor_distrib]
  cases r₁.getLsbD 7 <;> cases r₂.getLsbD 7
  · simp
  · simp [BitVec.xor_assoc]
  · simp [BitVec.xor_assoc, BitVec.xor_comm p]
  · simp [BitVec.xor_assoc, BitVec.xor_comm p]

theorem crcSteps_xor (k : Nat) (r₁ r₂ p : Byte) : crcSteps k (r₁ ^^^ r₂) p = crcSteps k r₁ p ^^^ crcSteps k r₂ p := by
  induction k generalizing r₁ r₂ with
  | zero => rfl
  | succ k ih => rw [crcSteps_succ, crcSteps_succ, crcSteps_succ, crcShift1_xor, ih]

theorem xor_xor_xor_comm {n : Nat} (a b c d : BitVec n) : (a ^^^ b) ^^^ (c ^^^ d) = (a ^^^ c) ^^^ (b ^^^ d) := by
  ac_rfl

/-- A byte step is linear in the register and the byte together. -/
theorem crcByteStep_xor (r₁ r₂ b₁ b₂ p : Byte) :
    crcByteStep (r₁ ^^^ r₂) (b₁ ^^^ b₂) p = crcByteStep r₁ b₁ p ^^^ crcByteStep r₂ b₂ p := by
  rw [crcByteStep, xor_xor_xor_comm, crcSteps_xor, ← crcByteStep, ← crcByteStep]

/-- A sequence followed by its checksum leaves zero. -/
theorem crc8_append_self (d : List Byte) (p i : Byte) : crc8 (d ++ [crc8 d p i]) p i = 0 := by
  rw [crc8_concat, crcByteStep_self]

/-- A sequence goes on from the checksum of what stands before it. -/
theorem crc8_append (d e : List Byte) (p i : Byte) : crc8 (d ++ e) p i = crc8 e p (crc8 d p i) := List.foldl_append

/-- With the zero polynomial every sequence but the empty one has the checksum zero. -/
theorem crc8_zero_poly (d : List Byte) (i : Byte) (h : d ≠ []) : crc8 d 0 i = 0 := by
  rw [← List.dropLast_concat_getLast h, crc8_concat, crcByteStep_zero_poly]

/-- Settles O15: each law is a lemma of its own, linearity from that of the bit step. -/
theorem checksumAlgebraicLaws : Obligations.ChecksumAlgebraicLaws :=
  ⟨crcByteStep_eq, crcShift1_xor, crcByteStep_xor, crcByteStep_self, crc8_append_self, crc8_append, crc8_zero_poly⟩

end Sys2Proof.Machine
end

section
/-! The CRC commands realise the checksum (40_crc.md R71). -/

namespace Sys2Proof.Machine

/-- Bytes taken in leave the checksum from the register and the polynomial as they stand. -/
theorem blockAfter_map_crcByte_crc (bytes : List Byte) (b : Block) :
    (blockAfter (bytes.map .crcByte) b).crc = crc8 bytes b.poly b.crc := by
  induction bytes generalizing b with
  | nil => rfl
  | cons v bytes ih =>
    rw [List.map_cons, blockAfter_cons, ih, crc8_cons]
    rfl

theorem blockAfter_crcSeq_crc (bytes : List Byte) (b : Block) :
    (blockAfter (expand (.crcSeq bytes)) b).crc = crc8 bytes b.poly b.init :=
  blockAfter_map_crcByte_crc bytes (b.setCrc b.init)

theorem blockAfter_crcConfig_crcSeq_crc (bytes : List Byte) (p i : Byte) (b : Block) :
    (blockAfter (expand (.crcConfig p i) ++ expand (.crcSeq bytes)) b).crc = crc8 bytes p i :=
  blockAfter_crcSeq_crc bytes ((b.setPoly p).setInit i)

/-- A run leaves the `CRC` that its CRC-engine commands alone leave. -/
theorem exists_run_crc (cs own : List Instr) (s : State) (hown : cs.filter Instr.isCrcEngine = own)
    (hp : s.pending = commandInputs cs) :
    ∃ t : State, Runs cs.length s t ∧ t.block.crc = (blockAfter own s.block).crc :=
  ⟨_, runs_all_commandInputs cs s hp, hown ▸ congrArg Prod.fst (blockAfter_crcRegs cs s.block)⟩

/-- Settles O23: the `CRC` is that of the CRC-engine commands alone, whose sequences are folds of the byte step; the last
response is `getLast?_answers_crcSeq`. -/
theorem crcCommandsComputeTheChecksum : Obligations.CrcCommandsComputeTheChecksum := by
  refine ⟨fun bytes p i cs s hcs hp => ?_, fun bytes cs s hcs hp => ?_, fun bytes s hp => ?_⟩
  · rw [← blockAfter_crcConfig_crcSeq_crc bytes p i s.block]
    exact exists_run_crc cs _ s hcs hp
  · rw [← blockAfter_crcSeq_crc bytes s.block]
    exact exists_run_crc cs _ s hcs hp
  · have hlength : (expand (.crcSeq bytes)).length = bytes.length + 1 := by simp [expand]
    refine ⟨_, hlength ▸ runs_all_commandInputs _ s hp, ?_⟩
    rw [List.getLast?_append, getLast?_answers_crcSeq, Option.some_or]
    rfl

end Sys2Proof.Machine
end

section
/-! The frame commands realise the parsers (41_frame.md R92). -/

namespace Sys2Proof.Machine

/-- The block has taken the sequence `f` in: the count is its length, up to 7, and its first six bytes stand in `FB` in
index order. -/
structure Block.Holds (b : Block) (f : List Byte) : Prop where
  flen : b.flen.toNat = min f.length 7
  fb : ∀ k (hk : k < 6) (hf : k < f.length), b.fb[k] = f[k]

theorem holds_clearFrame (b : Block) : b.clearFrame.Holds [] := ⟨rfl, nofun⟩

theorem Block.Holds.pushByte {b : Block} {f : List Byte} (h : b.Holds f) (v : Byte) : (b.pushByte v).Holds (f ++ [v]) := by
  obtain ⟨hflen, hfb⟩ := h
  refine ⟨?_, fun k hk hf => ?_⟩
  · rw [Block.pushByte_flen, countPush_toNat, hflen, List.length_append, List.length_singleton]
    omega
  · rw [List.length_append, List.length_singleton] at hf
    simp only [Block.pushByte_fb, storeFrameByte_getElem, List.getElem_append, hflen]
    by_cases hlt : k < f.length
    · rw [if_neg (by omega), dif_pos hlt, hfb k hk hlt]
    · rw [if_pos (by omega), dif_neg hlt, List.getElem_singleton]

/-- Bytes pushed are held after those held before. -/
theorem Block.Holds.blockAfter_map_frmPush {b : Block} {f : List Byte} (h : b.Holds f) (g : List Byte) :
    (blockAfter (g.map .frmPush) b).Holds (f ++ g) := by
  induction g generalizing b f with
  | nil => rwa [List.append_nil]
  | cons v g ih =>
    rw [List.append_cons]
    exact ih (h.pushByte v)

/-- `frm.load f` leaves a block that holds `f`. -/
theorem holds_frmLoad (f : List Byte) (b : Block) : (blockAfter (expand (.frmLoad f)) b).Holds f :=
  (holds_clearFrame b).blockAfter_map_frmPush f

/-- Only the frame registers matter for what is held. -/
theorem Block.Holds.of_frameRegs_eq {a b : Block} {f : List Byte} (h : b.Holds f) (hab : a.frameRegs = b.frameRegs) :
    a.Holds f := by
  obtain ⟨hfb, hflen, -, -⟩ := (frameRegs_eq_iff a b).1 hab
  exact ⟨hflen ▸ h.flen, hfb ▸ h.fb⟩

section
variable {b : Block} {f : List Byte}

theorem Block.Holds.flen_toNat_eq_iff (h : b.Holds f) {n : Nat} (hn : n < 7) : b.flen.toNat = n ↔ f.length = n := by
  rw [h.flen]
  omega

/-- The count is the length a parser's error reports. -/
theorem Block.Holds.zext32_flen (h : b.Holds f) : zext32 b.flen = reportedLength f.length := by
  rw [zext32_eq_ofNat, h.flen, reportedLength, Config.lengthLimit]

/-- `frm.dual` answers the encoded result of `parse_dual` (41_frame.md R83, R89). -/
theorem Block.Holds.frmDual_snd (h : b.Holds f) : (frmDual b).2 = (parseDual f).enc := by
  by_cases hlen : f.length = 6
  · rw [frmDual_snd_of_six b ((h.flen_toNat_eq_iff (by decide)).2 hlen)]
    match f, hlen with
    | [f0, f1, f2, f3, f4, f5], _ =>
      rw [parseDual_six, h.fb 0 (by decide) (by simp), h.fb 1 (by decide) (by simp), h.fb 2 (by decide) (by simp),
        h.fb 3 (by decide) (by simp), h.fb 4 (by decide) (by simp), h.fb 5 (by decide) (by simp)]
      rfl
  · rw [frmDual_snd_of_length_ne b (mt (h.flen_toNat_eq_iff (by decide)).1 hlen), parseDual_of_length_ne f hlen,
      h.zext32_flen]
    rfl

/-- With three bytes `frm.single` latches and answers the reading of `parse_single`. -/
theorem Block.Holds.frmSingle_of_ok (h : b.Holds f) {v : Reading24} (hv : parseSingle f = .ok v) :
    frmSingle b = (b.latchReading v, ⟨0, zext32 v⟩) := by
  have hlen : f.length = 3 := by
    by_contra hne
    rw [parseSingle_of_length_ne f hne] at hv
    cases hv
  rw [frmSingle_of_three b ((h.flen_toNat_eq_iff (by decide)).2 hlen)]
  match f, hlen with
  | [f0, f1, f2], _ =>
    rw [parseSingle_three] at hv
    injection hv with hv
    rw [h.fb 0 (by decide) (by simp), h.fb 1 (by decide) (by simp), h.fb 2 (by decide) (by simp), ← hv]
    rfl

/-- `frm.single` answers the encoded result of `parse_single` (41_frame.md R84, R90). -/
theorem Block.Holds.frmSingle_snd (h : b.Holds f) : (frmSingle b).2 = (parseSingle f).enc := by
  cases hf : parseSingle f with
  | ok v =>
    rw [h.frmSingle_of_ok hf]
    rfl
  | invalidFrameLength n =>
    have hlen : f.length ≠ 3 := fun hlen => by
      match f, hlen with
      | [f0, f1, f2], _ => cases hf
    rw [parseSingle_of_length_ne f hlen] at hf
    injection hf with hf
    rw [frmSingle_of_length_ne b (mt (h.flen_toNat_eq_iff (by decide)).1 hlen), h.zext32_flen, ← hf]
    rfl

end

/-- Settles O36: the block after the run holds `f`, because its frame commands alone leave it so, and on such a block the
two commands answer as the parsers do. -/
theorem frameCommandsRealiseTheParsers : Obligations.FrameCommandsRealiseTheParsers := by
  intro f cs s hcs hp
  have held : (blockAfter cs s.block).Holds f :=
    (holds_frmLoad f s.block).of_frameRegs_eq (hcs ▸ blockAfter_frameRegs cs s.block)
  refine ⟨_, _, runs_all_commandInputs cs s hp, ?_, exec_eq_next .frmSingle _, ?_, fun v hv => ?_⟩
  · rw [← held.frmDual_snd]
    exact exec_frmDual _
  · rw [← held.frmSingle_snd]
    rfl
  · have latched : sext24Cmd (frmSingle (blockAfter cs s.block)).1 =
        ((frmSingle (blockAfter cs s.block)).1, ⟨0, sext32 v⟩) := by
      rw [held.frmSingle_of_ok hv]
      exact sext24Cmd_of_latched _ (Block.latchReading_r24v _ v)
    exact exec_of_effect_eq .sext24 _ _ _ latched

end Sys2Proof.Machine
end

section
/-! Encoded readings parse back (41_frame.md R96). -/

namespace Sys2Proof.Machine

/-- A 16-bit reading is the one its two bytes make. -/
theorem be16_extractLsb' (a : Reading16) : be16 (a.extractLsb' 8 8) (a.extractLsb' 0 8) = a := by
  rw [be16_eq_append, BitVec.extractLsb'_append_extractLsb'_eq_extractLsb' (show 8 = 0 + 8 from rfl)]
  exact BitVec.extractLsb'_eq_self

/-- A 24-bit reading is the one its three bytes make. -/
theorem be24_extractLsb' (v : Reading24) : be24 (v.extractLsb' 16 8) (v.extractLsb' 8 8) (v.extractLsb' 0 8) = v := by
  rw [be24_eq_append, BitVec.extractLsb'_append_extractLsb'_eq_extractLsb' (show 16 = 8 + 8 from rfl),
    BitVec.extractLsb'_append_extractLsb'_eq_extractLsb' (show 8 = 0 + 8 from rfl)]
  exact BitVec.extractLsb'_eq_self

/-- Settles O27: the checksums of the built frame are right by construction, and its bytes make the readings again. -/
theorem encodedReadingsParseBack : Obligations.EncodedReadingsParseBack := by
  refine ⟨fun a b => ?_, fun v => ?_⟩
  · rw [dualFrameOf, parseDual_six, checkDual_of_match rfl rfl, be16_extractLsb', be16_extractLsb']
  · rw [singleFrameOf, parseSingle_three, be24_extractLsb']

end Sys2Proof.Machine
end

section
/-! Bit patterns as XORs of single bits. -/

namespace Sys2Proof.Machine

/-- The XOR of a list of words. -/
def xorSum {n : Nat} (l : List (BitVec n)) : BitVec n := l.foldr (· ^^^ ·) 0

/-- The positions of the set bits of a word, which `weight` counts. -/
def setBits {n : Nat} (e : BitVec n) : List Nat := (List.range n).filter fun k => e.getLsbD k

section
variable {n m : Nat}

@[simp] theorem xorSum_nil : xorSum ([] : List (BitVec n)) = 0 := rfl

@[simp] theorem xorSum_cons (x : BitVec n) (l : List (BitVec n)) : xorSum (x :: l) = x ^^^ xorSum l := rfl

/-- A linear map takes a XOR to the XOR of the values. -/
theorem map_xorSum (f : BitVec n → BitVec m) (hxor : ∀ x y, f (x ^^^ y) = f x ^^^ f y) (l : List (BitVec n)) :
    f (xorSum l) = xorSum (l.map f) := by
  induction l with
  | nil =>
    have hzero := hxor 0 0
    rw [BitVec.xor_self, BitVec.xor_self] at hzero
    exact hzero
  | cons x l ih => rw [xorSum_cons, hxor, ih, List.map_cons, xorSum_cons]

/-- A XOR of different single bits has just those bits. -/
theorem getLsbD_xorSum_twoPow (l : List Nat) (hl : l.Nodup) (i : Nat) (hi : i < n) :
    (xorSum (l.map (BitVec.twoPow n))).getLsbD i = decide (i ∈ l) := by
  induction l with
  | nil => simp
  | cons k l ih =>
    obtain ⟨hk, hl⟩ := List.nodup_cons.1 hl
    rw [List.map_cons, xorSum_cons, BitVec.getLsbD_xor, ih hl, BitVec.getLsbD_twoPow]
    by_cases hik : k = i
    · subst hik
      simp [hi, hk]
    · simp [hik, Ne.symm hik]

variable (e : BitVec n)

theorem mem_setBits (k : Nat) : k ∈ setBits e ↔ e.getLsbD k = true := by
  rw [setBits, List.mem_filter, List.mem_range]
  exact ⟨And.right, fun h => ⟨BitVec.lt_of_getLsbD h, h⟩⟩

theorem lt_of_mem_setBits {k : Nat} (h : k ∈ setBits e) : k < n := BitVec.lt_of_getLsbD ((mem_setBits e k).1 h)

theorem nodup_setBits : (setBits e).Nodup := List.nodup_range.filter _

theorem weight_eq_length_setBits : weight e = (setBits e).length := rfl

/-- A word is the XOR of its set bits. -/
theorem xorSum_setBits : xorSum ((setBits e).map (BitVec.twoPow n)) = e := by
  apply BitVec.eq_of_getLsbD_eq
  intro i hi
  rw [getLsbD_xorSum_twoPow _ (nodup_setBits e) i hi, Bool.eq_iff_iff, decide_eq_true_iff, mem_setBits]

theorem setBits_ne_nil (h : e ≠ 0) : setBits e ≠ [] := fun hnil => h <| by
  rw [← xorSum_setBits e, hnil]
  rfl

end

end Sys2Proof.Machine
end

section
/-! Errors in a dual frame (41_frame.md R95, 40_crc.md R64 item 6). The syndrome of an error pattern is the XOR of the
syndromes of its bits, and that of bit `k` is what `k` bit steps make of 1: the power `x ^ k` modulo the polynomial. -/

namespace Sys2Proof.Machine

/-- One bit step under the polynomial of the frame checks: multiplication by `x`. -/
def mulX (t : Byte) : Byte := crcShift1 t 0x31

/-- The power `x ^ k` modulo the polynomial of the frame checks. -/
def xPow (k : Nat) : Byte := mulX^[k] 1

/-- What an error pattern in three bytes adds to the checksum of the first two and to the third (40_crc.md R64). -/
def syndrome (e : BitVec 24) : Byte :=
  crc8 [e.extractLsb' 16 8, e.extractLsb' 8 8] 0x31 0 ^^^ e.extractLsb' 0 8

/-! ### The syndrome and the checks -/

/-- The checksum of two bytes, errors included: linearity splits the errors off. -/
theorem crc8_pair_xor (a b c d p i : Byte) :
    crc8 [a ^^^ c, b ^^^ d] p i = crc8 [a, b] p i ^^^ crc8 [c, d] p 0 := by
  have hinit : i = i ^^^ 0 := BitVec.xor_zero.symm
  conv_lhs => rw [hinit]
  simp only [crc8_cons, crc8_nil, crcByteStep_xor]

theorem syndrome_xor (e e' : BitVec 24) : syndrome (e ^^^ e') = syndrome e ^^^ syndrome e' := by
  rw [syndrome, BitVec.extractLsb'_xor, BitVec.extractLsb'_xor, BitVec.extractLsb'_xor, crc8_pair_xor,
    xor_xor_xor_comm, ← syndrome, ← syndrome]

/-- In three bytes whose checksum is right, an error leaves it right exactly when its syndrome is zero. -/
theorem frameChecksum_flip_eq_iff (e : BitVec 24) (f0 f1 f2 : Byte) (h : frameChecksum [f0, f1] = f2) :
    frameChecksum [f0 ^^^ e.extractLsb' 16 8, f1 ^^^ e.extractLsb' 8 8] = f2 ^^^ e.extractLsb' 0 8 ↔ syndrome e = 0 := by
  rw [frameChecksum_eq_crc8] at h ⊢
  rw [crc8_pair_xor, h, BitVec.xor_right_inj, syndrome]
  exact BitVec.xor_eq_zero_iff.symm

/-! ### The syndrome as a sum of powers -/

theorem xPow_succ (k : Nat) : xPow (k + 1) = mulX (xPow k) := Function.iterate_succ_apply' mulX k 1

theorem syndrome_twoPow : ∀ k < 24, syndrome (BitVec.twoPow 24 k) = xPow k := by decide +kernel

/-- The syndrome is the sum of the powers at the set bits. -/
theorem syndrome_eq_xorSum (e : BitVec 24) : syndrome e = xorSum ((setBits e).map xPow) := by
  calc syndrome e = syndrome (xorSum ((setBits e).map (BitVec.twoPow 24))) := by rw [xorSum_setBits]
    _ = xorSum (((setBits e).map (BitVec.twoPow 24)).map syndrome) := map_xorSum syndrome syndrome_xor _
    _ = xorSum ((setBits e).map xPow) := by
      rw [List.map_map]
      exact congrArg xorSum (List.map_congr_left fun k hk => syndrome_twoPow k (lt_of_mem_setBits e hk))

/-! ### Odd weight: the polynomial has an even number of terms -/

/-- The XOR of the low `n` bits of a byte. -/
def lowParity : Nat → Byte → Bool
  | 0, _ => false
  | n + 1, b => lowParity n b ^^ b.getLsbD n

theorem lowParity_xor (n : Nat) (a b : Byte) : lowParity n (a ^^^ b) = (lowParity n a ^^ lowParity n b) := by
  induction n with
  | zero => rfl
  | succ n ih =>
    rw [lowParity, lowParity, lowParity, ih, BitVec.getLsbD_xor, Bool.xor_assoc, Bool.xor_assoc,
      Bool.xor_left_comm (lowParity n b)]

/-- The parity of a byte. -/
def parity (b : Byte) : Bool := lowParity 8 b

theorem parity_xor (a b : Byte) : parity (a ^^^ b) = (parity a ^^ parity b) := lowParity_xor 8 a b

/-- Multiplication by `x` keeps the parity: a bit moves up, or is exchanged for the three terms of 0x31. -/
theorem parity_mulX (t : Byte) : parity (mulX t) = parity t := by
  revert t
  decide +kernel

theorem parity_xPow (k : Nat) : parity (xPow k) = true := by
  induction k with
  | zero => rfl
  | succ k ih => rw [xPow_succ, parity_mulX, ih]

theorem parity_xorSum_xPow (l : List Nat) : parity (xorSum (l.map xPow)) = decide (l.length % 2 = 1) := by
  induction l with
  | nil => rfl
  | cons k l ih =>
    rw [List.map_cons, xorSum_cons, parity_xor, parity_xPow, ih, List.length_cons]
    rcases Nat.mod_two_eq_zero_or_one l.length with h | h <;> simp [h, Nat.add_mod]

/-- A pattern that passes has even weight. -/
theorem weight_even_of_syndrome_eq_zero (e : BitVec 24) (h : syndrome e = 0) : weight e % 2 = 0 := by
  have hparity := parity_xorSum_xPow (setBits e)
  rw [← syndrome_eq_xorSum, h, ← weight_eq_length_setBits] at hparity
  have hodd : ¬ weight e % 2 = 1 := of_decide_eq_false hparity.symm
  omega

/-! ### Weight 2: the order of `x` is above 23 -/

theorem xPow_injOn : ∀ j < 24, ∀ k < 24, xPow j = xPow k → j = k := by decide +kernel

/-- No pattern of weight 2 passes. -/
theorem weight_ne_two_of_syndrome_eq_zero (e : BitVec 24) (h : syndrome e = 0) : weight e ≠ 2 := by
  intro htwo
  rw [weight_eq_length_setBits, List.length_eq_two] at htwo
  obtain ⟨j, k, hbits⟩ := htwo
  have hne : j ≠ k := by simpa [hbits] using nodup_setBits e
  have hj : j < 24 := lt_of_mem_setBits e (by simp [hbits])
  have hk : k < 24 := lt_of_mem_setBits e (by simp [hbits])
  have hsum : xPow j ^^^ xPow k = 0 := by simpa [syndrome_eq_xorSum, hbits] using h
  exact hne (xPow_injOn j hj k hk (BitVec.xor_eq_zero_iff.1 hsum))

/-! ### Bursts: `x` is invertible -/

theorem mulX_xor (s t : Byte) : mulX (s ^^^ t) = mulX s ^^^ mulX t := crcShift1_xor s t 0x31

theorem mulX_eq_zero (t : Byte) (h : mulX t = 0) : t = 0 := by
  revert t
  decide +kernel

theorem iterate_mulX_eq_zero (k : Nat) (t : Byte) (h : mulX^[k] t = 0) : t = 0 := by
  induction k with
  | zero => exact h
  | succ k ih =>
    rw [Function.iterate_succ_apply'] at h
    exact ih (mulX_eq_zero _ h)

theorem iterate_mulX_xor (k : Nat) (s t : Byte) : mulX^[k] (s ^^^ t) = mulX^[k] s ^^^ mulX^[k] t := by
  induction k generalizing s t with
  | zero => rfl
  | succ k ih => rw [Function.iterate_succ_apply, mulX_xor, ih, ← Function.iterate_succ_apply,
      ← Function.iterate_succ_apply]

/-- Below the degree of the polynomial the powers are single bits. -/
theorem xPow_eq_twoPow : ∀ d < 8, xPow d = BitVec.twoPow 8 d := by decide

/-- A power from `k` on is a single bit multiplied `k` times. -/
theorem xPow_eq_iterate_twoPow {j k : Nat} (hk : k ≤ j) (hj : j < k + 8) :
    xPow j = mulX^[k] (BitVec.twoPow 8 (j - k)) := by
  rw [← xPow_eq_twoPow (j - k) (by omega), xPow, xPow, ← Function.iterate_add_apply, Nat.add_sub_cancel' hk]

/-- The syndrome of a burst from bit `k` on is the burst itself, as a byte, multiplied `k` times. -/
theorem syndrome_of_burst (e : BitVec 24) (k : Nat) (h : ∀ j ∈ setBits e, k ≤ j ∧ j < k + 8) :
    syndrome e = mulX^[k] (xorSum (((setBits e).map (· - k)).map (BitVec.twoPow 8))) := by
  rw [syndrome_eq_xorSum, map_xorSum (mulX^[k]) (iterate_mulX_xor k), List.map_map, List.map_map]
  exact congrArg xorSum (List.map_congr_left fun j hj => xPow_eq_iterate_twoPow (h j hj).1 (h j hj).2)

/-- No burst passes. -/
theorem not_isBurst8_of_syndrome_eq_zero (e : BitVec 24) (hne : e ≠ 0) (h : syndrome e = 0) : ¬ IsBurst8 e := by
  rintro ⟨k, hburst⟩
  have within : ∀ j ∈ setBits e, k ≤ j ∧ j < k + 8 := fun j hj => hburst j ((mem_setBits e j).1 hj)
  have hnodup : ((setBits e).map (· - k)).Nodup :=
    (nodup_setBits e).map_on fun i hi j hj hij => by
      have hki := (within i hi).1
      have hkj := (within j hj).1
      omega
  obtain ⟨j, hj⟩ := List.exists_mem_of_ne_nil _ (setBits_ne_nil e hne)
  obtain ⟨hkj, hjk⟩ := within j hj
  have hbit := getLsbD_xorSum_twoPow _ hnodup (j - k) (show j - k < 8 by omega)
  have hsum := iterate_mulX_eq_zero k _ ((syndrome_of_burst e k within).symm.trans h)
  rw [hsum, show (0 : Byte) = 0#8 from rfl, BitVec.getLsbD_zero] at hbit
  exact of_decide_eq_false hbit.symm (List.mem_map_of_mem hj)

/-! ### The patterns that are caught -/

/-- The patterns of 41_frame.md R95 have a syndrome: weight 1 and 3 are odd, weight 2 and the bursts are above. -/
theorem syndrome_ne_zero (e : BitVec 24) (hne : e ≠ 0) (hsmall : weight e ≤ 3 ∨ weight e % 2 = 1 ∨ IsBurst8 e) :
    syndrome e ≠ 0 := by
  intro h
  have heven := weight_even_of_syndrome_eq_zero e h
  have htwo := weight_ne_two_of_syndrome_eq_zero e h
  have hpos : 0 < weight e := List.length_pos_iff.2 (setBits_ne_nil e hne)
  rcases hsmall with hthree | hodd | hburst
  · omega
  · omega
  · exact not_isBurst8_of_syndrome_eq_zero e hne h hburst

/-- A dual frame that parses has two right checksums and the readings of its bytes. -/
theorem parseDual_eq_ok {f0 f1 f2 f3 f4 f5 : Byte} {a b : Reading16}
    (h : parseDual [f0, f1, f2, f3, f4, f5] = .ok a b) :
    frameChecksum [f0, f1] = f2 ∧ frameChecksum [f3, f4] = f5 ∧ b = be16 f3 f4 := by
  rw [parseDual_six] at h
  by_cases hA : frameChecksum [f0, f1] = f2
  · by_cases hB : frameChecksum [f3, f4] = f5
    · rw [checkDual_of_match hA hB] at h
      injection h with _ hb
      exact ⟨hA, hB, hb.symm⟩
    · rw [checkDual_of_mismatch_B hA hB] at h
      cases h
  · rw [checkDual_of_mismatch_A hA] at h
    cases h

/-- A pattern of weight 4 that passes: the polynomial itself, `x ^ 8 + x ^ 5 + x ^ 4 + 1`. -/
theorem syndrome_polynomial : weight (0x000131 : BitVec 24) = 4 ∧ syndrome 0x000131 = 0 := by decide +kernel

/-- Settles O28: an error keeps a checksum right exactly when its syndrome is zero; the small patterns have a nonzero
one, and the polynomial has none. -/
theorem dualFrameCatchesSmallErrors : Obligations.DualFrameCatchesSmallErrors := by
  refine ⟨fun f0 f1 f2 f3 f4 f5 a b e hok hne hsmall => ?_, 0x000131, syndrome_polynomial.1,
    fun f0 f1 f2 f3 f4 f5 a b hok => ?_⟩
  · obtain ⟨hA, hB, -⟩ := parseDual_eq_ok hok
    have hsyndrome := syndrome_ne_zero e hne hsmall
    exact ⟨⟨_, _, checkDual_of_mismatch_A (mt (frameChecksum_flip_eq_iff e f0 f1 f2 hA).1 hsyndrome)⟩,
      ⟨_, _, checkDual_of_mismatch_B hA (mt (frameChecksum_flip_eq_iff e f3 f4 f5 hB).1 hsyndrome)⟩⟩
  · obtain ⟨hA, hB, rfl⟩ := parseDual_eq_ok hok
    exact ⟨_, checkDual_of_match ((frameChecksum_flip_eq_iff _ f0 f1 f2 hA).2 syndrome_polynomial.2) hB⟩

end Sys2Proof.Machine
end

section
/-! The layout of a line of text (30_encoding.md R48, notes/assumptions/11.md). -/

namespace Sys2Proof.Machine

/-! ### Operands in lower-case hex -/

theorem hexDigit?_digitChar : ∀ d < 16, hexDigit? d.digitChar = some d := by decide

theorem readOperand_hex (ds : List Char) (h : ds ≠ []) :
    readOperand ('0' :: 'x' :: ds) = readDigits 16 hexDigit? 0 ds := by
  cases ds with
  | nil => exact absurd rfl h
  | cons d ds => rfl

/-- A number written in lower-case hex is read back. -/
theorem readOperand_hex_toDigits (n : Nat) : readOperand ('0' :: 'x' :: Nat.toDigits 16 n) = some n := by
  rw [readOperand_hex _ Nat.toDigits_ne_nil]
  exact readDigits_toDigits (by decide) hexDigit?_digitChar n

theorem isToken_hex_toDigits (n : Nat) : IsToken ('0' :: 'x' :: Nat.toDigits 16 n) := by
  have digits : ∀ c ∈ Nat.toDigits 16 n, isTokenChar c = true := forall_mem_toDigits (by decide) (by decide) n
  exact ⟨nofun, List.forall_mem_cons.2 ⟨by decide, List.forall_mem_cons.2 ⟨by decide, digits⟩⟩⟩

/-- An operand in lower-case hex. -/
theorem assembleLine_hex (m : Mnemonic) (n : Nat) :
    assembleLine (mnemonicText m ++ ' ' :: '0' :: 'x' :: Nat.toDigits 16 n) =
      (assembleCommand ⟨m, some n⟩).map fun w => [w] :=
  assembleLine_mnemonicText_operand m (isToken_hex_toDigits n) (readOperand_hex_toDigits n)

/-! ### Blanks before a line -/

section
variable {blanks : List Char} (h : ∀ c ∈ blanks, c = ' ' ∨ c = '\t')
include h

theorem forall_mem_isBlank : ∀ c ∈ blanks, isBlank c = true := fun c hc => by
  rcases h c hc with rfl | rfl <;> rfl

theorem stripComment_blanks_append (line : List Char) : stripComment (blanks ++ line) = blanks ++ stripComment line :=
  List.takeWhile_append_of_pos fun c hc => by
    rcases h c hc with rfl | rfl <;> rfl

theorem trimBlanks_blanks_append (cs : List Char) : trimBlanks (blanks ++ cs) = trimBlanks cs := by
  rw [trimBlanks, List.dropWhile_append_of_pos (forall_mem_isBlank h), ← trimBlanks]

theorem assembleLine_blanks_append (line : List Char) : assembleLine (blanks ++ line) = assembleLine line := by
  unfold assembleLine
  rw [stripComment_blanks_append h, trimBlanks_blanks_append h]

end

/-- A line of a comment alone stands for no word. -/
theorem assembleLine_comment (comment : List Char) : assembleLine (';' :: comment) = .ok [] := rfl

/-- Settles O46: a lower-case hex operand is read as its number, blanks before a line are trimmed with it, and what is
left of a line of blanks and a comment is the comment. -/
theorem assemblerLayoutChosenByTheModel : Obligations.AssemblerLayoutChosenByTheModel := by
  refine ⟨fun m n hm hn => ?_, fun blanks line h => assembleLine_blanks_append h line, fun blanks comment h => ?_⟩
  · rw [assembleLine_hex, assembleCommand_formI m n hm hn, Except.map]
  · rw [assembleLine_blanks_append h, assembleLine_comment]

end Sys2Proof.Machine
end
